-- ==== Sys2Proof/Word.lean ====
section
/-! DEFINITION. The words of the ring and of the station clock (00_scope.md 5.1, 11_frame_and_record_layouts.md 11.1). -/

namespace Sys2Proof

/-- One byte of a frame. -/
abbrev Byte := BitVec 8

/-- A station clock value in milliseconds: 32 bits, wrapping (00_scope.md section 4, "Station clock"). -/
abbrev Time := BitVec 32

/-- A time of day in seconds from the office epoch: 32 bits, wrapping (R184). -/
abbrev TimeOfDay := BitVec 32

end Sys2Proof
end

