-- ==== Sys2Proof/Syntax.lean ====
section
/-! DEFINITION. The commands of the block: one constructor for each row of spec/opcode_table.json. -/

namespace Sys2Proof

/-- An accepted frame, less the CRC it was checked by (11_frame_and_record_layouts.md 11.1). -/
structure Frame where
  dst     : Byte
  src     : Byte
  kind    : Byte
  payload : List Byte
  deriving DecidableEq, Repr

/-- A command taken by the block. A frame row carries the accepted frame whole, a bad frame the bytes received,
a deadline row the channel, kiln or layer number it concerns. -/
inductive Instr where
  /-- POWER_ON (R189): Application of power or assertion of RESET brings every block to its power-on state and samples the address straps. -/
  | powerOn (straps : BitVec 7)
  /-- BAD_FRAME (R164): A frame received on port A with a bad length or CRC is dropped and one CRC-ERROR occurrence is posted. -/
  | badFrame (wire : List Byte)
  /-- OWN_FRAME_REMOVED (R165): An accepted frame whose source is the device's own address has come round the ring and is removed. -/
  | ownFrameRemoved (f : Frame)
  /-- SAMPLE_FRAME (R6): An accepted SAMPLE frame is forwarded and its entries are taken in order as arrivals on matching channels. -/
  | sampleFrame (f : Frame)
  /-- HOOK (R26): A HOOK mark from the hook counter node adds one to the hook lot's hooks counted and may end hooking at the target. -/
  | hook (f : Frame)
  /-- HOOK_SHORT (R27): A HOOK-SHORT mark counts one hook and ends hooking of the hook lot, or raises ORPHAN-HOOK when there is no hook lot. -/
  | hookShort (f : Frame)
  /-- CHARGE_START (R106): A CHARGE-START mark from the press node moves an IDLE press to CHARGING. -/
  | chargeStart (f : Frame)
  /-- PRESS_CYCLE (R106): A PRESS-CYCLE mark from the press node moves a CHARGING press to PRESSING. -/
  | pressCycle (f : Frame)
  /-- BALE_TIED (R109): A BALE-TIED mark in PRESSING sets the tie time and settle deadline and moves the press to WEIGHING. -/
  | baleTied (f : Frame)
  /-- UNLOAD_DONE (R94): An UNLOAD-DONE mark naming the kiln of the grant record completes the unload at the present net. -/
  | unloadDone (f : Frame)
  /-- COMMAND_FRAME (R174): A passing COMMAND frame is guarded and forwarded with the value the CGD gives it. -/
  | commandFrame (f : Frame)
  /-- RESTART (R176): An accepted RESTART frame empties the pass buffer and insert queues, is forwarded, and brings the ring restart of every block. -/
  | restart (f : Frame)
  /-- PASS_THROUGH_FRAME (R166): A REPLY, REPORT, TICKET, unknown-kind frame or REQUEST not addressed to the device is forwarded unchanged. -/
  | passThroughFrame (f : Frame)
  /-- FRAME_BOUNDARY (R168): At the end of a frame sent on port B the RLU chooses the next frame to send from the pass buffer or the insert queues. -/
  | frameBoundary
  /-- CHANNEL_STALE_DEADLINE (R13): When the station clock reaches a LIVE channel's stale deadline the channel becomes STALE and CHANNEL-STALE is posted. -/
  | channelStaleDeadline (c : Fin 64)
  /-- TRANSIT_ENTRY_DUE (R31): The head transit entry falls due, the weigh lot changes, the residue is dropped and hooking start is tested. -/
  | transitEntryDue
  /-- EVALUATION_EXPIRY (R70): A kiln's evaluation timer expires, is re-armed, and the kiln's DRYING, HELD or ENDPOINT evaluation is made. -/
  | evaluationExpiry (k : Fin 4)
  /-- OVERDRY_DEADLINE (R76): The overdry deadline of a kiln in ENDPOINT is reached and one OVERDRY occurrence is posted. -/
  | overdryDeadline (k : Fin 4)
  /-- UNLOAD_SETTLE_DEADLINE (R95): The grant record's settle deadline is reached and the unload completes at the present net. -/
  | unloadSettleDeadline
  /-- UNLOAD_OVERRUN_DEADLINE (R98): The grant record's overrun deadline is reached and one UNLOAD-OVERRUN occurrence is posted. -/
  | unloadOverrunDeadline
  /-- LAYER_REST_DUE (R100): A RESTING layer's rest due time is reached, the layer becomes READY and the PRU is told. -/
  | layerRestDue (layer : Nat)
  /-- PRESS_SETTLE_DEADLINE (R110): The press settle limit is reached in WEIGHING and the bale closes with UNSETTLED. -/
  | pressSettleDeadline
  /-- RING_IDLE_TIMEOUT (R172): Port A stays silent past the ring idle timeout, the silence indicator is set and RING-IDLE is posted. -/
  | ringIdleTimeout
  /-- TIME_OF_DAY_SECOND (R184): Each 1,000 ms of the station clock raises the time of day by one second. -/
  | timeOfDaySecond
  /-- REQUEST_UNDEFINED (R179): A REQUEST addressed to the device whose code names no request is answered MALFORMED, or discarded for a bad source or short payload. -/
  | requestUndefined (f : Frame)
  /-- TABLE_READ_CHANNEL (R15): TABLE-READ of the channel table returns configuration fields and status views of a window of entries. -/
  | tableReadChannel (f : Frame)
  /-- TABLE_READ_ACTUATOR (R173): TABLE-READ of the actuator table returns a window of actuator entries. -/
  | tableReadActuator (f : Frame)
  /-- TABLE_READ_NODE_CLASS (R180): TABLE-READ of the node-class table returns a window of node-class entries. -/
  | tableReadNodeClass (f : Frame)
  /-- TABLE_READ_KILN_SETUP (R44): TABLE-READ of the kiln setup entries returns a window of setup entries. -/
  | tableReadKilnSetup (f : Frame)
  /-- TABLE_READ_CONFIG (R182): TABLE-READ of the CONFIG record returns its fields as held and its valid flag. -/
  | tableReadConfig (f : Frame)
  /-- TABLE_READ_RECIPE (R62): TABLE-READ of the recipe table returns each recipe's stage count, rest time and stages. -/
  | tableReadRecipe (f : Frame)
  /-- TABLE_READ_BALE_LOG (R122): TABLE-READ of the bale log returns records newest first by position window. -/
  | tableReadBaleLog (f : Frame)
  /-- TABLE_WRITE_CHANNEL (R3): A channel table write is checked, clamped and duplicate-checked, and resets the status of each entry written. -/
  | tableWriteChannel (f : Frame)
  /-- TABLE_WRITE_ACTUATOR (R173): An actuator table write is checked, replaces the entries and purges the command queue of unmatched actuators. -/
  | tableWriteActuator (f : Frame)
  /-- TABLE_WRITE_NODE_CLASS (R180): A node-class table write replaces entries that give requesters their class. -/
  | tableWriteNodeClass (f : Frame)
  /-- TABLE_WRITE_KILN_SETUP (R45): A kiln setup write is accepted only for EMPTY kilns, clamped, and followed by the selection test. -/
  | tableWriteKilnSetup (f : Frame)
  /-- TABLE_WRITE_CONFIG (R183): A CONFIG write is checked, clamped, refused below the floor book, and makes the record valid with each reader's tests. -/
  | tableWriteConfig (f : Frame)
  /-- TABLE_WRITE_RECIPE (R182): A TABLE-WRITE naming the recipe table is refused with REFUSED-STATE. -/
  | tableWriteRecipe (f : Frame)
  /-- TABLE_WRITE_BALE_LOG (R122): A TABLE-WRITE naming the bale log is refused with REFUSED-STATE. -/
  | tableWriteBaleLog (f : Frame)
  /-- STATUS_READ_DEVICE (R187): STATUS-READ of the device view returns mode, CONFIG validity, time, report destination, class and address. -/
  | statusReadDevice (f : Frame)
  /-- STATUS_READ_CHANNELS (R187): STATUS-READ of the channels view returns the state and age of each configured channel. -/
  | statusReadChannels (f : Frame)
  /-- STATUS_READ_EVENTS (R187): STATUS-READ of the events view returns the flag, enable and count of each event kind. -/
  | statusReadEvents (f : Frame)
  /-- STATUS_READ_INTAKE (R41): STATUS-READ of the intake view returns hook lot, weigh lot, queues, feed permit and residue. -/
  | statusReadIntake (f : Frame)
  /-- STATUS_READ_LOT (R41): STATUS-READ of a lot returns the lot record named by its lot number. -/
  | statusReadLot (f : Frame)
  /-- STATUS_READ_FILL (R56): STATUS-READ of the fill view returns the filling and diverter kilns and every load record. -/
  | statusReadFill (f : Frame)
  /-- STATUS_READ_KILNS (R86): STATUS-READ of the kiln view returns each kiln's drying state and the staging area. -/
  | statusReadKilns (f : Frame)
  /-- STATUS_READ_FLOOR (R103): STATUS-READ of the floor view returns the unload list, grant record, floor book and layers. -/
  | statusReadFloor (f : Frame)
  /-- STATUS_READ_PRESS (R123): STATUS-READ of the press view returns the press state, permit, horizon and waiting part tickets. -/
  | statusReadPress (f : Frame)
  /-- STATUS_READ_BALE (R122): STATUS-READ of a bale returns its record from the bale log by bale number. -/
  | statusReadBale (f : Frame)
  /-- STATUS_READ_TICKETS (R147): STATUS-READ of the ticket view returns the transmitter, credits, queue and wait list. -/
  | statusReadTickets (f : Frame)
  /-- STATUS_READ_TICKET (R147): STATUS-READ of a ticket returns its built contents by serial. -/
  | statusReadTicket (f : Frame)
  /-- STATUS_READ_LINK (R177): STATUS-READ of the link view returns queue occupancy, starvation count and link counts. -/
  | statusReadLink (f : Frame)
  /-- RECIPE_BEGIN (R60): RECIPE-BEGIN opens the staging area for a recipe, discarding any load in progress. -/
  | recipeBegin (f : Frame)
  /-- RECIPE_STAGE (R61): RECIPE-STAGE takes the next stage into the staging area, or discards the load when out of order. -/
  | recipeStage (f : Frame)
  /-- RECIPE_END (R62): RECIPE-END commits the staged recipe whole to the recipe table when its counts agree. -/
  | recipeEnd (f : Frame)
  /-- TIME_SET (R184): TIME-SET sets the time of day and the time-valid flag. -/
  | timeSet (f : Frame)
  /-- EVENT_ENABLE (R185): EVENT-ENABLE replaces all event enables and makes the requester the report destination. -/
  | eventEnable (f : Frame)
  /-- EVENT_CLEAR (R186): EVENT-CLEAR clears the flags and counts of the named event kinds and returns the counts. -/
  | eventClear (f : Frame)
  /-- START (R188): START takes the device into started mode, makes the orphan check and runs the first intake, fill and press tests. -/
  | start (f : Frame)
  /-- LOT_OPEN (R22): LOT-OPEN opens a lot record in the lowest free slot and queues it for hooking. -/
  | lotOpen (f : Frame)
  /-- LOT_CANCEL (R23): LOT-CANCEL withdraws a QUEUED lot and frees its record. -/
  | lotCancel (f : Frame)
  /-- LOT_END (R28): LOT-END ends hooking of the named HOOKING lot. -/
  | lotEnd (f : Frame)
  /-- KILN_START (R66): KILN-START starts drying of a LOADED kiln with a non-empty assigned recipe. -/
  | kilnStart (f : Frame)
  /-- KILN_HOLD (R79): KILN-HOLD holds a DRYING kiln, or adds OPERATOR to a HELD kiln's causes. -/
  | kilnHold (f : Frame)
  /-- KILN_RESUME (R81): KILN-RESUME returns a HELD kiln to DRYING when its plenum is LIVE and not above the ceiling. -/
  | kilnResume (f : Frame)
  /-- KILN_FORCE_END (R82): KILN-FORCE-END takes a LOADED, DRYING, HELD or ORPHAN kiln to ENDPOINT with FORCED. -/
  | kilnForceEnd (f : Frame)
  /-- KILN_FILL_CLOSE (R55): KILN-FILL-CLOSE closes the fill of a FILLING kiln holding contributions. -/
  | kilnFillClose (f : Frame)
  /-- KILN_CLEAR (R85): KILN-CLEAR declares an ORPHAN kiln empty and returns it to EMPTY. -/
  | kilnClear (f : Frame)
  /-- KILN_RECIPE (R63): KILN-RECIPE sets the assigned recipe of a kiln's setup entry. -/
  | kilnRecipe (f : Frame)
  /-- FLOOR_CLEAR (R102): FLOOR-CLEAR writes off every RESTING and READY layer, posting sweep updates to their lots. -/
  | floorClear (f : Frame)
  /-- PRESS_ABORT (R108): PRESS-ABORT returns a CHARGING or PRESSING press to IDLE without closing a bale. -/
  | pressAbort (f : Frame)
  /-- TICKET_CREDIT_ADD (R143): TICKET-CREDIT in ADD mode raises the credits by n, saturating at 255. -/
  | ticketCreditAdd (f : Frame)
  /-- TICKET_CREDIT_SET (R143): TICKET-CREDIT in SET mode sets the credits to n, withdrawing a waiting segment when n is 0. -/
  | ticketCreditSet (f : Frame)
  /-- TICKET_STOP (R144): TICKET-STOP makes the transmitter STOPPED and withdraws any waiting segment. -/
  | ticketStop (f : Frame)
  /-- TICKET_RUN (R144): TICKET-RUN makes the transmitter RUN and makes the exhausted and offer tests. -/
  | ticketRun (f : Frame)
  /-- TICKET_REWIND (R146): TICKET-REWIND sets every SENDING and SENT ticket back to SENDABLE at segment 0. -/
  | ticketRewind (f : Frame)
  /-- TICKET_RELEASE (R145): TICKET-RELEASE frees a SENT ticket's blocks and queue slot and makes the build test. -/
  | ticketRelease (f : Frame)
  /-- MALFORMED_MARK_FRAME (R191): An accepted MARK frame whose length is not 2 or whose code names none of the six mark codes is forwarded unchanged and read by no block. -/
  | malformedMarkFrame (f : Frame)
  deriving DecidableEq, Repr

end Sys2Proof
end

