-- ==== Sys2Proof/Decode.lean ====
section
/-! DEFINITION. The command that a word spells by the table's bits. No row of spec/opcode_table.json gives bits ("fields" is
empty in every row), so no word spells a command; `receivedCommand` reads the bytes of the ring. -/

namespace Sys2Proof

/-- The command that a word spells by the bits of the opcode table: none, for the table gives no row bits. -/
def decodeTableWord (nbits w : Nat) : Option Instr :=
  match nbits, w with
  | _, _ => none

end Sys2Proof
end

