-- ==== Sys2Proof/Machine/Tab.lean ====
section
/-! DEFINITION. Tables of a fixed number of entries (channel table, lot table, kilns and the rest). -/

namespace Sys2Proof

/-- A table of `n` entries, as a list that has that length. -/
structure Tab (α : Type) (n : Nat) where
  cells : List α
  size  : cells.length = n
  deriving DecidableEq, Repr

namespace Tab

variable {α β : Type} {n : Nat}

/-- The entry at an index of the table. -/
def get (t : Tab α n) (i : Fin n) : α := t.cells[i.val]'(by rw [t.size]; exact i.isLt)

/-- The entry at any index; `d` outside the table. -/
def getD (t : Tab α n) (i : Nat) (d : α) : α := t.cells.getD i d

/-- The table with one entry replaced; an index outside the table replaces nothing. -/
def put (t : Tab α n) (i : Nat) (x : α) : Tab α n := ⟨t.cells.set i x, by rw [List.length_set]; exact t.size⟩

/-- The table with the entry at an index of the table replaced. -/
def set (t : Tab α n) (i : Fin n) (x : α) : Tab α n := t.put i.val x

/-- The table with the entry at an index of the table changed by a function. -/
def modify (t : Tab α n) (i : Fin n) (f : α → α) : Tab α n := t.set i (f (t.get i))

/-- The table with entries replaced from an index upward. -/
def putFrom (t : Tab α n) (i : Nat) : List α → Tab α n
  | []      => t
  | x :: xs => (t.put i x).putFrom (i + 1) xs

/-- Every entry changed by a function. -/
def map (f : α → β) (t : Tab α n) : Tab β n := ⟨t.cells.map f, by rw [List.length_map]; exact t.size⟩

/-- Every entry changed by a function of its index. -/
def mapIdx (f : Fin n → α → α) (t : Tab α n) : Tab α n :=
  ⟨(List.finRange n).map (fun i => f i (t.get i)), by rw [List.length_map, List.length_finRange]⟩

/-- The table whose every entry is `x`. -/
def fill (n : Nat) (x : α) : Tab α n := ⟨List.replicate n x, List.length_replicate⟩

/-- The lowest index whose entry meets a test. -/
def lowest? (t : Tab α n) (p : α → Bool) : Option (Fin n) := (List.finRange n).find? (fun i => p (t.get i))

end Tab

end Sys2Proof
end

