-- ==== Sys2Proof/Machine/Records.lean ====
section
/-! DEFINITION. The records the spec gives the block's units, as plain data, in the order of its chapters. -/

namespace Sys2Proof

/-! ### Chapter 1: channels (R1) -/

/-- Unit class of a channel, in the code order of 11.3. -/
inductive ChannelKind where
  | temp | rh | mass | load | speed | generic
  deriving DecidableEq, Repr

inductive ChannelState where
  | unseen | live | stale | fault
  deriving DecidableEq, Repr

/-- One channel table entry: the configuration part, then the status part. -/
structure Channel where
  valid         : Bool
  sourceNode    : Nat
  sourceChannel : Nat
  kind          : ChannelKind
  gain          : Int
  offset        : Int
  exponent      : Nat
  low           : Int
  high          : Int
  state         : ChannelState
  held          : Int
  clamped       : Bool
  settled       : Bool
  lastArrival   : Option Time
  staleDeadline : Option Time
  deriving DecidableEq, Repr

/-- The present view of a channel (R15). -/
structure ChannelView where
  state   : ChannelState
  held    : Int
  clamped : Bool
  settled : Bool
  age     : Nat
  deriving DecidableEq, Repr

/-- A notice of the SMN to the consumers (R14). `arrival` tells an arrival notice from a state notice. -/
structure Notice where
  channel : Nat
  arrival : Bool
  value   : Int
  clamped : Bool
  settled : Bool
  time    : Time
  before  : ChannelState
  after   : ChannelState
  deriving DecidableEq, Repr

/-- The blocks that act on notices (section 1.4). -/
inductive Consumer where
  | itk | kfr | kc (k : Fin 4) | uar | pru
  deriving DecidableEq, Repr

/-! ### Chapter 2: lots (R19 to R21, R30, R37) -/

inductive LotState where
  | queued | hooking | inTransit | inProcess | complete
  deriving DecidableEq, Repr

/-- The lot flags (R20), in the bit order of 11.4. -/
structure LotFlags where
  gap             : Bool
  moistureClamped : Bool
  spill           : Bool
  scaleSuspect    : Bool
  forced          : Bool
  shortBale       : Bool
  unsettled       : Bool
  bookShort       : Bool
  swept           : Bool
  untimed         : Bool
  refsFull        : Bool
  deriving DecidableEq, Repr

/-- One entry of a lot's bale reference list. -/
structure BaleRef where
  bale     : Nat
  share    : Nat
  moisture : Nat
  deriving DecidableEq, Repr

/-- A live lot record (R19). -/
structure Lot where
  number        : Nat
  grower        : Nat
  variety       : Nat
  greenMoisture : Nat
  hookTarget    : Nat
  hooks         : Nat
  state         : LotState
  greenFed      : Nat
  spill         : Nat
  greenUnloaded : Nat
  kilnRefs      : Nat
  floorMass     : Nat
  refs          : List BaleRef
  baledMass     : Nat
  drySum        : Nat
  partCount     : Nat
  sweepLoss     : Nat
  openTime      : Option TimeOfDay
  hookEndTime   : Option TimeOfDay
  flags         : LotFlags
  deriving DecidableEq, Repr

/-- A transit entry (R30): the incoming lot slot or none, and its due time. -/
structure TransitEntry where
  lot : Option (Fin 32)
  due : Time
  deriving DecidableEq, Repr

inductive Permit where
  | go | slow | hold
  deriving DecidableEq, Repr

/-- Hold causes of the feed permit (R37). -/
inductive FeedCause where
  | notStarted | noHookLot | beltChannel | noKiln | noRoom
  deriving DecidableEq, Repr

/-! ### Chapter 3: kiln setup and load records (R44, R49) -/

structure KilnSetup where
  enabled       : Bool
  scale         : Nat
  plenum        : Nat
  exhaust       : Nat
  burner        : Nat
  fan           : Nat
  greenCapacity : Nat
  ceiling       : Nat
  holdFan       : Nat
  recipe        : Nat
  autostart     : Bool
  deriving DecidableEq, Repr

/-- A contribution of a load; `slot` is absent for UNASSIGNED, whose lot number is 0. -/
structure Contribution where
  slot      : Option (Fin 32)
  lotNumber : Nat
  green     : Nat
  w         : Nat
  dry       : Nat
  deriving DecidableEq, Repr

/-- A load record; its green total and dry total are computed from the contributions (`greenTotal`, `dryTotal`). -/
structure LoadRecord where
  serial        : Option Nat
  contributions : List Contribution
  tare          : Nat
  suspect       : Bool
  deriving DecidableEq, Repr

/-! ### Chapter 4: recipes and kilns (R59, R60, R64, R65) -/

inductive EndKind where
  | time | rh | moisture
  deriving DecidableEq, Repr

structure Stage where
  setpoint  : Nat
  fan       : Nat
  ramp      : Nat
  endKind   : EndKind
  threshold : Nat
  min       : Nat
  max       : Nat
  deriving DecidableEq, Repr

/-- A recipe; its stage count is the length of its stage list, and a recipe with no stage is empty. -/
structure Recipe where
  rest   : Nat
  stages : List Stage
  deriving DecidableEq, Repr

/-- The staging area while it is open (R60). -/
structure Staging where
  recipe   : Nat
  declared : Nat
  rest     : Nat
  stages   : List Stage
  deriving DecidableEq, Repr

/-- The states of a kiln (R64); DRYING and HELD carry the stage index. -/
inductive KilnState where
  | empty | filling | loaded | drying (stage : Nat) | held (stage : Nat) | endpoint | unloading | orphan
  deriving DecidableEq, Repr

structure HoldCauses where
  plenum   : Bool
  overtemp : Bool
  operator : Bool
  deriving DecidableEq, Repr

/-- A station clock value with the time of day where that was valid. -/
structure Stamp where
  clock : Time
  tod   : Option TimeOfDay
  deriving DecidableEq, Repr

/-- The running recipe: the number and the copy taken. -/
structure Running where
  number : Nat
  copy   : Recipe
  deriving DecidableEq, Repr

/-- What a kiln controller holds (R64, R65, R86). -/
structure Kiln where
  state        : KilnState
  running      : Option Running
  rest         : Nat
  elapsed      : Nat
  setpoint     : Int
  estimate     : Nat
  debounce     : Nat
  suspectRun   : Bool
  causes       : HoldCauses
  evalDeadline : Option Time
  endpointTime : Option Stamp
  overdry      : Option Time
  forced       : Bool
  burnerBound  : Bool
  fanBound     : Bool
  lastBurner   : Option Nat
  lastFan      : Option Nat
  deriving DecidableEq, Repr

/-! ### Chapter 5: unload and floor (R90, R99) -/

structure Grant where
  kiln     : Fin 4
  layer    : Nat
  net      : Nat
  moisture : Nat
  time     : Time
  overrun  : Option Time
  settle   : Option Time
  deriving DecidableEq, Repr

inductive LayerState where
  | receiving | resting | ready
  deriving DecidableEq, Repr

/-- A share of a layer or of a bale; `slot` is absent for UNASSIGNED. -/
structure Share where
  slot      : Option (Fin 32)
  lotNumber : Nat
  grams     : Nat
  deriving DecidableEq, Repr

structure Layer where
  number      : Nat
  kiln        : Fin 4
  serial      : Nat
  state       : LayerState
  provisional : Nat
  mass        : Nat
  remaining   : Nat
  moisture    : Nat
  shares      : List Share
  unloadTime  : Option Stamp
  restDue     : Option Time
  forced      : Bool
  deriving DecidableEq, Repr

/-! ### Chapter 6: press and bales (R106, R116, R120) -/

inductive PressState where
  | idle | charging | pressing | weighing
  deriving DecidableEq, Repr

inductive PressCause where
  | notStarted | cycle | refsFull | noHorizon | chargeChannel | chargeLimit
  deriving DecidableEq, Repr

structure BaleFlags where
  short     : Bool
  offweight : Bool
  unsettled : Bool
  bookShort : Bool
  deriving DecidableEq, Repr

structure BaleRecord where
  number     : Nat
  gross      : Nat
  net        : Nat
  moisture   : Nat
  drawn      : List Nat
  shares     : List Share
  unassigned : Option Nat
  close      : Stamp
  flags      : BaleFlags
  deriving DecidableEq, Repr

/-! ### Chapter 7: tickets (R126, R131, R132, R136) -/

inductive TicketKind where
  | part | final
  deriving DecidableEq, Repr

structure WaitEntry where
  slot      : Fin 32
  lotNumber : Nat
  kind      : TicketKind
  deriving DecidableEq, Repr

inductive TicketState where
  | sendable | sending | sent
  deriving DecidableEq, Repr

/-- The header of a ticket (R131). Masses are in tenths of a kilogram (R163), but for `settlementGrams`, the stored
figure of the build that R163 names. -/
structure TicketHeader where
  kind              : TicketKind
  buildTime         : Option TimeOfDay
  lotNumber         : Nat
  grower            : Nat
  variety           : Nat
  openTime          : Option TimeOfDay
  hookEndTime       : Option TimeOfDay
  hookTarget        : Nat
  hooks             : Nat
  partCount         : Nat
  greenFed          : Option Nat
  spill             : Option Nat
  sweepLoss         : Option Nat
  baledMass         : Nat
  deliveredMoisture : Nat
  settlementGrams   : Nat
  settlementMass    : Nat
  reference         : Nat
  flags             : LotFlags
  deriving DecidableEq, Repr

/-- A bale entry of a ticket (R132); `found` is the log-found indication. -/
structure TicketEntry where
  bale     : Nat
  share    : Nat
  moisture : Nat
  flags    : BaleFlags
  found    : Bool
  deriving DecidableEq, Repr

/-- A ticket of the ticket queue (R136); its segment count is its block count (`Ticket.segments`). -/
structure Ticket where
  serial  : Nat
  kind    : TicketKind
  state   : TicketState
  next    : Nat
  header  : TicketHeader
  entries : List TicketEntry
  deriving DecidableEq, Repr

/-- A segment in the ticket slot (R138, R139). -/
structure Segment where
  serial : Nat
  index  : Nat
  count  : Nat
  body   : List Byte
  deriving DecidableEq, Repr

/-! ### Chapter 9: ring link and guard (R170, R173, R177) -/

/-- Actuator functions, in the code order of 11.3. -/
inductive ActuatorFunction where
  | feeder | burner | fan | diverter | pressCharge | unloadConveyor | other
  deriving DecidableEq, Repr

structure Actuator where
  valid    : Bool
  node     : Nat
  number   : Nat
  function : ActuatorFunction
  kiln     : Fin 4
  deriving DecidableEq, Repr

/-- A command of the command queue. -/
structure Command where
  node   : Nat
  number : Nat
  value  : Nat
  deriving DecidableEq, Repr

/-- The counts of the link view, 32 bits each, holding at their top (R177). -/
structure LinkCounts where
  accepted         : Nat
  forwarded        : Nat
  badDropped       : Nat
  roomDropped      : Nat
  ownRemoved       : Nat
  requestsConsumed : Nat
  restartsTaken    : Nat
  commandsInserted : Nat
  repliesInserted  : Nat
  reportsInserted  : Nat
  ticketsInserted  : Nat
  repliesDiscarded : Nat
  reportsDiscarded : Nat
  rewritten        : Tab Nat 7
  deriving DecidableEq, Repr

/-! ### Chapter 10: management (5.4, R180, 10.4, 10.6) -/

inductive Mode where
  | transparent | started
  deriving DecidableEq, Repr

/-- Reply statuses, in the code order of 11.1. -/
inductive Status where
  | done | doneClamped | refusedState | outOfRange | notPermitted | noRoom | notFound | duplicate | malformed | sequence
  | notStarted
  deriving DecidableEq, Repr

/-- The class of a requester (R180). -/
inductive NodeClass where
  | viewer | operator | weighmaster
  deriving DecidableEq, Repr

structure NodeClassEntry where
  valid       : Bool
  address     : Nat
  mask        : Nat
  weighmaster : Bool
  deriving DecidableEq, Repr

/-- The CONFIG record, its fields in the order of section 10.4. -/
structure StationConfig where
  beltLoad        : Nat
  beltSpeed       : Nat
  hookNode        : Nat
  pressNode       : Nat
  unloadNode      : Nat
  transitDelay    : Nat
  feedQuantum     : Nat
  feederSlow      : Nat
  pressScale      : Nat
  pressCharge     : Nat
  baleTarget      : Nat
  baleTolerance   : Nat
  baleTare        : Nat
  settleLimit     : Nat
  pressSlowBand   : Nat
  pressSlow       : Nat
  reference       : Nat
  floorCapacity   : Nat
  emptyThreshold  : Nat
  unloadSettle    : Nat
  unloadTimeout   : Nat
  overdryLimit    : Nat
  evalInterval    : Nat
  mismatch        : Nat
  overtempMargin  : Nat
  starvationGuard : Nat
  idleTimeout     : Nat
  deriving DecidableEq, Repr

/-- The blocks that make a test of their own after a CONFIG write (R183). -/
inductive ConfigReader where
  | itk | kfr | uar | pru | rlu
  deriving DecidableEq, Repr

/-- The 24 event kinds in their code order (10.6, 11.1). -/
inductive EventKind where
  | crcError | passOverflow | ringIdle | channelStale | channelFault | orphanHook | transitFull | beltReverse | feedHold
  | spill | loadMismatch | scaleSuspect | kilnHeld | stageOverrun | endpoint | overdry | orphanLoad | unloadOverrun
  | pressHold | bookShort | baleClosed | ticketReady | storeFull | creditExhausted
  deriving DecidableEq, Repr

/-- The context of an occurrence: the fields a REPORT carries (11.1). -/
structure Context where
  kiln   : Option Nat
  lot    : Option Nat
  item   : Option Nat
  detail : Option Nat
  deriving DecidableEq, Repr

structure EventCell where
  flag   : Bool
  enable : Bool
  count  : Nat
  deriving DecidableEq, Repr

structure Report where
  dst   : Nat
  kind  : EventKind
  count : Nat
  ctx   : Context
  deriving DecidableEq, Repr

/-! ### Status views (R187): the content of each view, whose bytes the spec does not lay out -/

inductive ChannelUse where
  | beltLoad | beltSpeed | pressScale | pressCharge | kilnScale (k : Fin 4) | kilnPlenum (k : Fin 4) | kilnExhaust (k : Fin 4)
  deriving DecidableEq, Repr

structure DeviceView where
  mode        : Mode
  configValid : Bool
  time        : TimeOfDay
  timeValid   : Bool
  reportDest  : Option Nat
  requester   : NodeClass
  address     : Nat
  deriving DecidableEq, Repr

structure ChannelsRow where
  channel : Nat
  use     : ChannelUse
  state   : ChannelState
  age     : Nat
  deriving DecidableEq, Repr

/-- R41. Lots are shown as slot and lot number, transit entries as lot number or none and milliseconds to go. -/
structure IntakeView where
  hookLot    : Option (Fin 32 × Nat)
  weighLot   : Option (Fin 32 × Nat)
  queue      : List Nat
  transit    : List (Option Nat × Nat)
  deferred   : Bool
  boundary   : Bool
  permit     : Permit
  cause      : Option FeedCause
  reversing  : Bool
  residue    : Nat
  deriving DecidableEq, Repr

structure LoadView where
  serial        : Option Nat
  tare          : Nat
  green         : Nat
  dry           : Nat
  suspect       : Bool
  contributions : List Contribution
  deriving DecidableEq, Repr

/-- R56. -/
structure FillView where
  filling    : Option (Fin 4)
  diverter   : Option (Fin 4)
  loads      : List LoadView
  spillRun   : Option Nat
  nextSerial : Nat
  deriving DecidableEq, Repr

/-- R86, one kiln. -/
structure KilnView where
  state       : KilnState
  running     : Option (Nat × Nat)
  rest        : Nat
  elapsed     : Nat
  setpoint    : Int
  stage       : Option (Nat × Nat × EndKind)
  estimate    : Nat
  debounce    : Nat
  suspectRun  : Bool
  causes      : HoldCauses
  endpoint    : Option Stamp
  overdryIn   : Option Nat
  forced      : Bool
  evalIn      : Option Nat
  burnerBound : Bool
  fanBound    : Bool
  lastBurner  : Option Nat
  lastFan     : Option Nat
  deriving DecidableEq, Repr

/-- R86: the kilns, and the staging area's recipe number, declared count and stages received. -/
structure KilnsView where
  kilns   : List KilnView
  staging : Option (Nat × Nat × Nat)
  deriving DecidableEq, Repr

structure GrantView where
  kiln     : Fin 4
  layer    : Nat
  net      : Nat
  moisture : Nat
  seconds  : Nat
  overrun  : Bool
  settleIn : Option Nat
  deriving DecidableEq, Repr

/-- R103. -/
structure FloorView where
  requests  : List (Fin 4)
  grant     : Option GrantView
  book      : Nat
  capacity  : Nat
  layers    : List (Layer × Option Nat)
  nextLayer : Nat
  deriving DecidableEq, Repr

/-- R123. -/
structure PressView where
  state         : PressState
  chargeStart   : Option Time
  tie           : Option Time
  settle        : Option Time
  settleIn      : Option Nat
  permit        : Permit
  cause         : Option PressCause
  horizon       : Nat
  horizonLayers : List Nat
  charge        : Option (Nat × Nat)
  nextBale      : Nat
  logged        : Nat
  waiting       : List Nat
  deriving DecidableEq, Repr

structure TicketRow where
  serial   : Nat
  kind     : TicketKind
  lot      : Nat
  state    : TicketState
  next     : Nat
  segments : Nat
  blocks   : Nat
  deriving DecidableEq, Repr

/-- R147. -/
structure TicketsView where
  run        : Bool
  credits    : Nat
  freeBlocks : Nat
  count      : Nat
  tickets    : List TicketRow
  slot       : Option Nat
  waiting    : List (Nat × TicketKind × Nat)
  blocked    : Bool
  exhausted  : Bool
  nextSerial : Nat
  deriving DecidableEq, Repr

/-- R147, one ticket. -/
structure TicketView where
  serial  : Nat
  header  : TicketHeader
  entries : List TicketEntry
  deriving DecidableEq, Repr

/-- R177. -/
structure LinkView where
  address    : Nat
  inRange    : Bool
  pass       : Nat
  commands   : Nat
  replies    : Nat
  reports    : Nat
  slot       : Nat
  starvation : Nat
  guard      : Nat
  silence    : Bool
  sinceFrame : Option Nat
  counts     : LinkCounts
  deriving DecidableEq, Repr

/-- The content of a status view, in the code order of R187. -/
inductive View where
  | device (v : DeviceView)
  | channels (rows : List ChannelsRow)
  | events (cells : List EventCell)
  | intake (v : IntakeView)
  | lot (v : Lot)
  | fill (v : FillView)
  | kilns (v : KilnsView)
  | floor (v : FloorView)
  | press (v : PressView)
  | bale (v : BaleRecord)
  | tickets (v : TicketsView)
  | ticket (v : TicketView)
  | link (v : LinkView)
  deriving DecidableEq, Repr

/-- The data of a reply: bytes laid out by chapter 11, or one part of a status view. -/
inductive ReplyData where
  | bytes (bs : List Byte)
  | viewPart (part parts : Nat) (v : View)
  deriving DecidableEq, Repr

/-- What an owner answers a request with. -/
structure Answer where
  status : Status
  data   : ReplyData
  deriving DecidableEq, Repr

/-- A reply of the reply queue: its destination, the tag echoed, and the answer. -/
structure Reply where
  dst    : Nat
  tag    : List Byte
  answer : Answer
  deriving DecidableEq, Repr

end Sys2Proof
end

