-- ==== Sys2Proof/Config.lean ====
section
/-! DEFINITION. The free values: what the spec leaves open, as constants with no body. -/

namespace Sys2Proof

/-- FREE VALUE (log 8). The bytes of a status view. R187 gives each view's content and chapter 11 the bytes of everything
but the views, so the encoding of a view's content as bytes is any function of the content. What is sent of them is bounded
by the one byte that numbers the parts (`viewBytes`). -/
opaque Config.viewBytes : View → List Byte

/-- FREE VALUE (log 7). The destination address of an inserted TICKET frame: R169 leaves it to the posting block and
chapter 7 names none. It is one of the 127 destinations of 11.1, counted from 0 for address 1, and is applied to a counter of
the state, so it may differ from segment to segment. -/
opaque Config.ticketDestination : Nat → Fin 127

/-- FREE VALUE (log 44). The kiln index that an actuator entry holds when its function names no kiln and the byte written for
it is above 3: R173 accepts the write and gives the field the values 0 to 3. It is applied to a counter of the state and the
place of the entry in the write. -/
opaque Config.unusedKiln : Nat → Nat → Fin 4

end Sys2Proof
end

