-- ==== Sys2Proof/Machine/Arith.lean ====
section
/-! DEFINITION. The arithmetic of chapter 8, the sequences of 5.2 and the modular station clock. -/

namespace Sys2Proof.Machine

/-- A result stored in a 32-bit mass field or 32-bit count holds at 4,294,967,295 (R19, R150, R177). -/
def sat32 (n : Nat) : Nat := min n 4294967295

/-- A 64-bit sum holds at its top value (R150). -/
def sat64 (n : Nat) : Nat := min n 18446744073709551615

/-- One more in a 16-bit saturating count (R26). -/
def bump16 (n : Nat) : Nat := min (n + 1) 65535

/-- One more in a link view count (R177). -/
def bump32 (n : Nat) : Nat := sat32 (n + 1)

/-- The number after `n` in a sequence from 1 to `top` (5.2). -/
def nextInSequence (top n : Nat) : Nat := if top ≤ n then 1 else n + 1

/-- The first number of a sequence, from `n` on, that is not held; `fuel` bounds the numbers passed over. -/
def firstFree (top : Nat) (held : List Nat) : Nat → Nat → Nat
  | 0,        n => n
  | fuel + 1, n => if n ∈ held then firstFree top held fuel (nextInSequence top n) else n

/-- A value clamped to a range (5.3). -/
def clampNat (lo hi n : Nat) : Nat := if n < lo then lo else if hi < n then hi else n

/-- A signed value clamped to a range (5.3, R9). -/
def clampInt (lo hi x : Int) : Int := if x < lo then lo else if hi < x then hi else x

/-- Rounded half up (R150): raised when twice the remainder is at or above the divisor. -/
def roundHalfUp (n d : Nat) : Nat := if d ≤ 2 * (n % d) then n / d + 1 else n / d

/-- Tenths of a kilogram, rounded half up from grams (R163). -/
def tenths (grams : Nat) : Nat := roundHalfUp grams 100

/-- Channel scaling (R8): the product with the gain, divided by 1024 toward minus infinity, plus the offset. -/
def scaled (x gain offset : Int) : Int := (x * gain) / 1024 + offset

/-- The belt increment in micrograms (R151). -/
def beltIncrement (load speed dt : Nat) : Nat := min load 60000 * min speed 5000 * dt

/-- The dry matter of a green mass at moisture `w` (R153). -/
def dryMatter (green w : Nat) : Nat := green * (1000 - w) / 1000

/-- The moisture estimate from the net and the dry total (R154), and whether the scale is marked suspect. -/
def moistureEstimate (net dry : Nat) : Nat × Bool :=
  if dry < net then (min 999 ((net - dry) * 1000 / net), false)
  else if 0 < net then (0, true)
  else (0, false)

/-! ### The largest-remainder split (R155) -/

/-- The largest remainder in a list of part and remainder. -/
def topRemainder : List (Nat × Nat) → Nat
  | []           => 0
  | (_, r) :: xs => max r (topRemainder xs)

/-- One gram to the first entry whose remainder is `m`; its remainder is then spent. -/
def giveFirst (m : Nat) : List (Nat × Nat) → List (Nat × Nat)
  | []           => []
  | (p, r) :: xs => if r = m then (p + 1, 0) :: xs else (p, r) :: giveFirst m xs

/-- `n` grams, each to the earliest entry with the largest remainder left. -/
def giveGrams : Nat → List (Nat × Nat) → List (Nat × Nat)
  | 0,     xs => xs
  | n + 1, xs => giveGrams n (giveFirst (topRemainder xs) xs)

/-- The bases and remainders of a split of `total` over weights whose sum is `sum`. -/
def splitBases (total sum : Nat) (weights : List Nat) : List (Nat × Nat) :=
  weights.map (fun a => (total * a / sum, total * a % sum))

/-- The largest-remainder split (R155): no parts when the weights sum to 0, else one part for each weight in list order. -/
def split (total : Nat) (weights : List Nat) : Option (List Nat) :=
  if weights.sum = 0 then none
  else
    let bases := splitBases total weights.sum weights
    some ((giveGrams (total - (bases.map Prod.fst).sum) bases).map Prod.fst)

/-! ### Bale and ticket figures -/

/-- The bale's moisture (R159) from the two draws and their layers' moistures, the excess, and the reference moisture. -/
def baleMoisture (d1 m1 d2 m2 excess reference : Nat) : Nat :=
  if d1 = 0 ∧ d2 = 0 then reference
  else
    let me := if 0 < d2 then m2 else m1
    roundHalfUp (d1 * m1 + d2 * m2 + excess * me) (d1 + d2 + excess)

/-- The dry-matter figure of a share (R160). -/
def dryFigure (share moisture : Nat) : Nat := share * (1000 - moisture)

/-- Settlement mass in grams (R161). -/
def settlementGrams (drySum reference : Nat) : Nat := sat32 (roundHalfUp drySum (1000 - reference))

/-- Delivered moisture (R162). -/
def deliveredMoisture (baled drySum : Nat) : Nat :=
  if baled = 0 then 0 else min 999 (roundHalfUp (baled * 1000 - drySum) baled)

/-! ### Station clock -/

/-- A station clock value some milliseconds after another. -/
def after (t : Time) (ms : Nat) : Time := t + BitVec.ofNat 32 ms

/-- The milliseconds from an earlier clock value to a later one, modulo 2^32. -/
def elapsed (since now : Time) : Nat := (now - since).toNat

/-- The clock has reached a deadline. DEDUCED (log 3): deadlines are taken modulo 2^32 and no span of the device is
half of it, so a deadline less than 2^31 ms behind the clock is reached. -/
def reached (deadline now : Time) : Bool := elapsed deadline now < 2147483648

/-- The clock has reached a deadline that is present. -/
def due (deadline : Option Time) (now : Time) : Bool :=
  match deadline with
  | none   => false
  | some d => reached d now

/-- The milliseconds until a deadline, or 0 if it has passed (R41). -/
def msUntil (deadline now : Time) : Nat := if reached deadline now then 0 else elapsed now deadline

end Sys2Proof.Machine
end

