-- ==== Sys2Proof/Machine/State.lean ====
section
/-! DEFINITION. The state of the block, block by block as 00_scope.md 3.1 lists the owners, and its power-on state. -/

namespace Sys2Proof.Machine

/-- The block never stops by itself: bad frames are dropped (R164) and bad requests answered (R179). No command faults. -/
inductive Fault where
  deriving DecidableEq, Repr

/-- Why a command has no meaning. -/
inductive Refusal where
  /-- Raised by an arm of `exec` whose command has no meaning yet; safe (the step has no next state). No arm raises it. -/
  | notModelled (mnemonic : String)
  deriving DecidableEq, Repr

/-- Management Unit (R189); `nextSecond` is the station clock value at which the time of day next rises (R184). -/
structure Mgu where
  mode        : Mode
  nodeClasses : Tab NodeClassEntry 16
  config      : StationConfig
  configValid : Bool
  timeOfDay   : TimeOfDay
  timeValid   : Bool
  nextSecond  : Time
  events      : Tab EventCell 24
  reportDest  : Option Nat
  deriving DecidableEq, Repr

/-- Intake Unit (R42). A lot slot is free when its record is absent. -/
structure Itk where
  lots        : Tab (Option Lot) 32
  queue       : List (Fin 32)
  transit     : List TransitEntry
  hookLot     : Option (Fin 32)
  weighLot    : Option (Fin 32)
  deferred    : Bool
  boundary    : Bool
  accumulator : Nat
  prevBelt    : Option Time
  reversing   : Bool
  permit      : Permit
  cause       : Option FeedCause
  deriving DecidableEq, Repr

/-- Fill Router and the kiln setup entries (R57). The spill-run marker holds a lot slot and that lot's number. -/
structure Kfr where
  diverter   : Option (Fin 4)
  loads      : Tab LoadRecord 4
  nextSerial : Nat
  spillRun   : Option (Fin 32 × Nat)
  setups     : Tab KilnSetup 4
  deriving DecidableEq, Repr

/-- Recipe Table: recipes 1 to 8 at indices 0 to 7, and the staging area, closed when absent (R87). -/
structure Rct where
  recipes : Tab Recipe 8
  staging : Option Staging
  deriving DecidableEq, Repr

/-- Unload Arbiter (R104). -/
structure Uar where
  requests : List (Fin 4)
  grant    : Option Grant
  deriving DecidableEq, Repr

/-- Conditioning Floor (R104); the floor book is computed from the layers (`floorBook`, R101). -/
structure Cfl where
  layers     : List Layer
  nextNumber : Nat
  deriving DecidableEq, Repr

/-- Press Unit (R124); the bale log is newest last; `waiting` is the record of part-ticket requests waiting (R118). -/
structure Pru where
  state       : PressState
  chargeStart : Option Time
  tie         : Option Time
  settle      : Option Time
  nextBale    : Nat
  log         : List BaleRecord
  permit      : Permit
  cause       : Option PressCause
  waiting     : List (Fin 32 × Nat)
  deriving DecidableEq, Repr

/-- Ticket Unit (R148); the store's free blocks are computed from the queue (`freeBlocks`, R129). -/
structure Tku where
  waitList   : List WaitEntry
  queue      : List Ticket
  nextSerial : Nat
  run        : Bool
  credits    : Nat
  blocked    : Bool
  exhausted  : Bool
  deriving DecidableEq, Repr

/-- Ring Link Unit (R178); `portB` is the frame being sent on port B, absent when port B is idle (R168). -/
structure Rlu where
  address     : BitVec 7
  passBuffer  : List Frame
  portB       : Option Frame
  commands    : List Command
  replies     : List Reply
  reports     : List Report
  slot        : Option Segment
  starvation  : Nat
  silence     : Bool
  silenceFrom : Option Time
  lastFrame   : Option Time
  counts      : LinkCounts
  deriving DecidableEq, Repr

/-- The whole state. `pending` is the queue of commands waiting, first in first out. `sched` and `freeCount` are the
model's own: the choices for the orders the spec leaves open (log 4), and the counter of the free values of logs 7 and 44. -/
structure State where
  pending   : List Instr
  sched     : List Nat
  freeCount : Nat
  clock     : Time
  channels  : Tab Channel 64
  mgu       : Mgu
  itk       : Itk
  kfr       : Kfr
  kilns     : Tab Kiln 4
  rct       : Rct
  uar       : Uar
  cfl       : Cfl
  pru       : Pru
  tku       : Tku
  rlu       : Rlu
  actuators : Tab Actuator 24
  deriving DecidableEq, Repr

/-! ### The power-on values -/

/-- R17. -/
def Channel.powerOn : Channel where
  valid := false
  sourceNode := 0
  sourceChannel := 0
  kind := .generic
  gain := 0
  offset := 0
  exponent := 0
  low := 0
  high := 0
  state := .unseen
  held := 0
  clamped := false
  settled := false
  lastArrival := none
  staleDeadline := none

/-- R189: every CONFIG field 0. -/
def StationConfig.powerOn : StationConfig where
  beltLoad := 0
  beltSpeed := 0
  hookNode := 0
  pressNode := 0
  unloadNode := 0
  transitDelay := 0
  feedQuantum := 0
  feederSlow := 0
  pressScale := 0
  pressCharge := 0
  baleTarget := 0
  baleTolerance := 0
  baleTare := 0
  settleLimit := 0
  pressSlowBand := 0
  pressSlow := 0
  reference := 0
  floorCapacity := 0
  emptyThreshold := 0
  unloadSettle := 0
  unloadTimeout := 0
  overdryLimit := 0
  evalInterval := 0
  mismatch := 0
  overtempMargin := 0
  starvationGuard := 0
  idleTimeout := 0

/-- R189. The time of day rises each 1,000 ms of the station clock from power-on (R184), so first at 1,000 (log 26). -/
def Mgu.powerOn : Mgu where
  mode := .transparent
  nodeClasses := Tab.fill 16 ⟨false, 0, 0, false⟩
  config := StationConfig.powerOn
  configValid := false
  timeOfDay := 0
  timeValid := false
  nextSecond := 1000
  events := Tab.fill 24 ⟨false, false, 0⟩
  reportDest := none

/-- R42. -/
def Itk.powerOn : Itk where
  lots := Tab.fill 32 none
  queue := []
  transit := []
  hookLot := none
  weighLot := none
  deferred := false
  boundary := false
  accumulator := 0
  prevBelt := none
  reversing := false
  permit := .hold
  cause := some .notStarted

/-- The cleared load record (R49, R57). -/
def LoadRecord.cleared : LoadRecord := ⟨none, [], 0, false⟩

/-- R57. -/
def KilnSetup.powerOn : KilnSetup where
  enabled := false
  scale := 0
  plenum := 0
  exhaust := 0
  burner := 0
  fan := 0
  greenCapacity := 0
  ceiling := 300
  holdFan := 0
  recipe := 0
  autostart := false

/-- R57. -/
def Kfr.powerOn : Kfr where
  diverter := none
  loads := Tab.fill 4 LoadRecord.cleared
  nextSerial := 1
  spillRun := none
  setups := Tab.fill 4 KilnSetup.powerOn

/-- R87. -/
def Kiln.powerOn : Kiln where
  state := .empty
  running := none
  rest := 0
  elapsed := 0
  setpoint := 0
  estimate := 0
  debounce := 0
  suspectRun := false
  causes := ⟨false, false, false⟩
  evalDeadline := none
  endpointTime := none
  overdry := none
  forced := false
  burnerBound := false
  fanBound := false
  lastBurner := none
  lastFan := none

/-- R87. -/
def Rct.powerOn : Rct := ⟨Tab.fill 8 ⟨0, []⟩, none⟩

/-- R104. -/
def Uar.powerOn : Uar := ⟨[], none⟩

/-- R104. -/
def Cfl.powerOn : Cfl := ⟨[], 1⟩

/-- R124. -/
def Pru.powerOn : Pru where
  state := .idle
  chargeStart := none
  tie := none
  settle := none
  nextBale := 1
  log := []
  permit := .hold
  cause := some .notStarted
  waiting := []

/-- R148. -/
def Tku.powerOn : Tku where
  waitList := []
  queue := []
  nextSerial := 1
  run := true
  credits := 0
  blocked := false
  exhausted := false

/-- R178: every link view count 0. -/
def LinkCounts.powerOn : LinkCounts where
  accepted := 0
  forwarded := 0
  badDropped := 0
  roomDropped := 0
  ownRemoved := 0
  requestsConsumed := 0
  restartsTaken := 0
  commandsInserted := 0
  repliesInserted := 0
  reportsInserted := 0
  ticketsInserted := 0
  repliesDiscarded := 0
  reportsDiscarded := 0
  rewritten := Tab.fill 7 0

/-- R178, with the node address sampled from the straps (R165). -/
def Rlu.powerOn (straps : BitVec 7) : Rlu where
  address := straps
  passBuffer := []
  portB := none
  commands := []
  replies := []
  reports := []
  slot := none
  starvation := 0
  silence := false
  silenceFrom := none
  lastFrame := none
  counts := LinkCounts.powerOn

/-- R173: every actuator table entry at power-on. -/
def Actuator.powerOn : Actuator := ⟨false, 0, 0, .other, 0⟩

/-- The power-on state with the address straps at `straps` (R17, R42, R57, R87, R104, R124, R148, R178, R189), an empty
queue and the model's own fields at their reset values. -/
def State.powerOn (straps : BitVec 7) : State where
  pending := []
  sched := []
  freeCount := 0
  clock := 0
  channels := Tab.fill 64 Channel.powerOn
  mgu := Mgu.powerOn
  itk := Itk.powerOn
  kfr := Kfr.powerOn
  kilns := Tab.fill 4 Kiln.powerOn
  rct := Rct.powerOn
  uar := Uar.powerOn
  cfl := Cfl.powerOn
  pru := Pru.powerOn
  tku := Tku.powerOn
  rlu := Rlu.powerOn straps
  actuators := Tab.fill 24 Actuator.powerOn

/-- The machine right after reset. DESIGN CHOICE (log 6): the straps stand at 1, the lowest node address; POWER_ON samples
any other strap levels. -/
def State.reset : State := State.powerOn 1

end Sys2Proof.Machine
end

