-- ==== Sys2Proof/Machine/Layout.lean ====
section
/-! DEFINITION. The byte layouts of chapter 11: fields, the CRC, table entries, ticket segments and the device's frames. -/

namespace Sys2Proof.Machine

/-! ### Fields (R190): most significant byte first -/

/-- A number as `n` bytes, most significant first. -/
def beBytes : Nat → Nat → List Byte
  | 0,     _ => []
  | n + 1, v => BitVec.ofNat 8 (v / 256 ^ n) :: beBytes n v

/-- A signed number as `n` bytes in two's complement. -/
def beSigned (n : Nat) (v : Int) : List Byte := beBytes n (v % (256 ^ n : Nat)).toNat

/-- Bytes read as a number, most significant first. -/
def beNat (bs : List Byte) : Nat := bs.foldl (fun a b => a * 256 + b.toNat) 0

/-- Bytes read as a signed number in two's complement of their width. -/
def beInt (bs : List Byte) : Int :=
  if 2 * beNat bs < 256 ^ bs.length then (beNat bs : Int) else (beNat bs : Int) - (256 ^ bs.length : Nat)

/-- The field of `n` bytes at an offset, as a number. -/
def field (bs : List Byte) (off n : Nat) : Nat := beNat ((bs.drop off).take n)

/-- The signed field of `n` bytes at an offset. -/
def fieldInt (bs : List Byte) (off n : Nat) : Int := beInt ((bs.drop off).take n)

/-- A yes-or-no field. -/
def boolByte (b : Bool) : List Byte := [if b then 1 else 0]

/-- Bits of a status or flag field, bit 0 first, as a number. -/
def bitsNat : List Bool → Nat
  | []      => 0
  | b :: bs => (if b then 1 else 0) + 2 * bitsNat bs

/-! ### The frame check (R164, 11.1) -/

/-- The CRC register after one more bit, polynomial x^16 + x^12 + x^5 + 1. -/
def crcBit (reg : BitVec 16) (bit : Bool) : BitVec 16 :=
  if reg.getMsbD 0 != bit then (reg <<< 1) ^^^ 0x1021 else reg <<< 1

/-- The CRC register after one more byte, most significant bit first. -/
def crcByte (reg : BitVec 16) (b : Byte) : BitVec 16 :=
  [7, 6, 5, 4, 3, 2, 1, 0].foldl (fun r i => crcBit r (b.getLsbD i)) reg

/-- The CRC over a frame's header and payload, from a register of all ones. -/
def crc (bs : List Byte) : BitVec 16 := bs.foldl crcByte 0xFFFF

/-- A frame's header and payload as bytes (11.1). -/
def frameBody (f : Frame) : List Byte := f.dst :: f.src :: f.kind :: BitVec.ofNat 8 f.payload.length :: f.payload

/-- A frame as it stands on the ring, with its CRC, high byte first. -/
def wire (f : Frame) : List Byte := frameBody f ++ beBytes 2 (crc (frameBody f)).toNat

/-- The bytes received make a bad frame (R164): a length field above 240, a byte count other than header, length and
CRC, or a CRC that differs. -/
def frameBad (bs : List Byte) : Bool :=
  let len := field bs 3 1
  decide (240 < len) || bs.length != 4 + len + 2 || beNat (bs.drop (4 + len)) != (crc (bs.take (4 + len))).toNat

/-- The frame that good bytes carry. -/
def frameOf (bs : List Byte) : Frame where
  dst := bs.getD 0 0
  src := bs.getD 1 0
  kind := bs.getD 2 0
  payload := (bs.drop 4).take (field bs 3 1)

/-! ### Codes (11.1, 11.3) -/

def ChannelKind.code : ChannelKind → Nat
  | .temp => 0 | .rh => 1 | .mass => 2 | .load => 3 | .speed => 4 | .generic => 5

def ChannelKind.ofCode : Nat → Option ChannelKind
  | 0 => some .temp | 1 => some .rh | 2 => some .mass | 3 => some .load | 4 => some .speed | 5 => some .generic | _ => none

def ChannelState.code : ChannelState → Nat
  | .unseen => 0 | .live => 1 | .stale => 2 | .fault => 3

def ActuatorFunction.code : ActuatorFunction → Nat
  | .feeder => 0 | .burner => 1 | .fan => 2 | .diverter => 3 | .pressCharge => 4 | .unloadConveyor => 5 | .other => 6

def ActuatorFunction.ofCode : Nat → Option ActuatorFunction
  | 0 => some .feeder | 1 => some .burner | 2 => some .fan | 3 => some .diverter | 4 => some .pressCharge
  | 5 => some .unloadConveyor | 6 => some .other | _ => none

def EndKind.code : EndKind → Nat
  | .time => 0 | .rh => 1 | .moisture => 2

def EndKind.ofCode : Nat → Option EndKind
  | 0 => some .time | 1 => some .rh | 2 => some .moisture | _ => none

def Status.code : Status → Nat
  | .done => 0 | .doneClamped => 1 | .refusedState => 2 | .outOfRange => 3 | .notPermitted => 4 | .noRoom => 5
  | .notFound => 6 | .duplicate => 7 | .malformed => 8 | .sequence => 9 | .notStarted => 10

/-- The index of an event kind, one less than its code. -/
def EventKind.index : EventKind → Fin 24
  | .crcError => 0 | .passOverflow => 1 | .ringIdle => 2 | .channelStale => 3 | .channelFault => 4 | .orphanHook => 5
  | .transitFull => 6 | .beltReverse => 7 | .feedHold => 8 | .spill => 9 | .loadMismatch => 10 | .scaleSuspect => 11
  | .kilnHeld => 12 | .stageOverrun => 13 | .endpoint => 14 | .overdry => 15 | .orphanLoad => 16 | .unloadOverrun => 17
  | .pressHold => 18 | .bookShort => 19 | .baleClosed => 20 | .ticketReady => 21 | .storeFull => 22 | .creditExhausted => 23

/-- The eleven lot flags as bits 0 to 10 (11.4). -/
def LotFlags.bits (f : LotFlags) : Nat :=
  bitsNat [f.gap, f.moistureClamped, f.spill, f.scaleSuspect, f.forced, f.shortBale, f.unsettled, f.bookShort, f.swept,
    f.untimed, f.refsFull]

/-! ### Table entries (11.3) -/

/-- A channel entry as TABLE-READ returns it: the write fields, then the status view. -/
def channelBytes (c : Channel) (v : ChannelView) : List Byte :=
  boolByte c.valid ++ beBytes 1 c.sourceNode ++ beBytes 1 c.sourceChannel ++ beBytes 1 (ChannelKind.code c.kind)
    ++ beSigned 2 c.gain ++ beSigned 4 c.offset ++ beBytes 1 c.exponent ++ beSigned 4 c.low ++ beSigned 4 c.high
    ++ beBytes 1 (ChannelState.code v.state) ++ beSigned 4 v.held ++ beBytes 1 (bitsNat [v.clamped, v.settled])
    ++ beBytes 4 v.age

/-- An actuator entry as it reads (R173). -/
def actuatorBytes (a : Actuator) : List Byte :=
  boolByte a.valid ++ beBytes 1 a.node ++ beBytes 1 a.number ++ beBytes 1 (ActuatorFunction.code a.function)
    ++ beBytes 1 a.kiln.val

def nodeClassBytes (e : NodeClassEntry) : List Byte :=
  boolByte e.valid ++ beBytes 1 e.address ++ beBytes 1 e.mask ++ beBytes 1 (if e.weighmaster then 2 else 1)

def kilnSetupBytes (k : KilnSetup) : List Byte :=
  boolByte k.enabled ++ beBytes 1 k.scale ++ beBytes 1 k.plenum ++ beBytes 1 k.exhaust ++ beBytes 1 k.burner
    ++ beBytes 1 k.fan ++ beBytes 4 k.greenCapacity ++ beBytes 2 k.ceiling ++ beBytes 2 k.holdFan ++ beBytes 1 k.recipe
    ++ boolByte k.autostart

/-- The CONFIG record as TABLE-READ returns it: 55 bytes of fields and the valid byte. -/
def configBytes (c : StationConfig) (valid : Bool) : List Byte :=
  beBytes 1 c.beltLoad ++ beBytes 1 c.beltSpeed ++ beBytes 1 c.hookNode ++ beBytes 1 c.pressNode
    ++ beBytes 1 c.unloadNode ++ beBytes 2 c.transitDelay ++ beBytes 4 c.feedQuantum ++ beBytes 2 c.feederSlow
    ++ beBytes 1 c.pressScale ++ beBytes 1 c.pressCharge ++ beBytes 4 c.baleTarget ++ beBytes 2 c.baleTolerance
    ++ beBytes 2 c.baleTare ++ beBytes 2 c.settleLimit ++ beBytes 2 c.pressSlowBand ++ beBytes 2 c.pressSlow
    ++ beBytes 2 c.reference ++ beBytes 4 c.floorCapacity ++ beBytes 4 c.emptyThreshold ++ beBytes 2 c.unloadSettle
    ++ beBytes 2 c.unloadTimeout ++ beBytes 2 c.overdryLimit ++ beBytes 2 c.evalInterval ++ beBytes 2 c.mismatch
    ++ beBytes 2 c.overtempMargin ++ beBytes 2 c.starvationGuard ++ beBytes 2 c.idleTimeout ++ boolByte valid

def stageBytes (s : Stage) : List Byte :=
  beBytes 2 s.setpoint ++ beBytes 2 s.fan ++ beBytes 1 s.ramp ++ beBytes 1 (EndKind.code s.endKind)
    ++ beBytes 2 s.threshold ++ beBytes 2 s.min ++ beBytes 2 s.max

def recipeBytes (r : Recipe) : List Byte :=
  beBytes 1 r.stages.length ++ beBytes 2 r.rest ++ r.stages.flatMap stageBytes

/-- A lot slot, or its absent code 255. -/
def slotByte (slot : Option (Fin 32)) : List Byte :=
  match slot with
  | none   => [255]
  | some i => beBytes 1 i.val

/-- A bale record as TABLE-READ returns it. The close time's four bytes are the station clock, then the time of day. An absent
UNASSIGNED share is sent as 0 (log 45). -/
def baleBytes (b : BaleRecord) : List Byte :=
  beBytes 2 b.number ++ beBytes 4 b.gross ++ beBytes 4 b.net ++ beBytes 2 b.moisture ++ beBytes 1 (b.drawn.getD 0 0)
    ++ beBytes 1 (b.drawn.getD 1 0)
    ++ beBytes 1 (bitsNat [b.flags.short, b.flags.offweight, b.flags.unsettled, b.flags.bookShort, b.close.tod.isSome])
    ++ beBytes 4 b.close.clock.toNat ++ beBytes 4 (b.close.tod.getD 0).toNat ++ beBytes 1 b.shares.length
    ++ b.shares.flatMap (fun s => slotByte s.slot ++ beBytes 2 s.lotNumber ++ beBytes 4 s.grams)
    ++ beBytes 4 (b.unassigned.getD 0)

/-! ### Ticket segments (11.4) -/

/-- The 52-byte header of segment 0. The figures that a PART ticket does not carry are sent as 0 (log 45). -/
def ticketHeaderBytes (h : TicketHeader) (k : Nat) : List Byte :=
  beBytes 1 (match h.kind with | .part => 0 | .final => 1)
    ++ beBytes 1 (bitsNat [h.buildTime.isSome, h.openTime.isSome, h.hookEndTime.isSome, h.greenFed.isSome])
    ++ beBytes 4 (h.buildTime.getD 0).toNat ++ beBytes 2 h.lotNumber ++ beBytes 2 h.grower ++ beBytes 1 h.variety
    ++ beBytes 4 (h.openTime.getD 0).toNat ++ beBytes 4 (h.hookEndTime.getD 0).toNat ++ beBytes 2 h.hookTarget
    ++ beBytes 2 h.hooks ++ beBytes 2 h.partCount ++ beBytes 4 (h.greenFed.getD 0) ++ beBytes 4 (h.spill.getD 0)
    ++ beBytes 4 (h.sweepLoss.getD 0) ++ beBytes 4 h.baledMass ++ beBytes 2 h.deliveredMoisture
    ++ beBytes 4 h.settlementMass ++ beBytes 2 h.reference ++ beBytes 1 k ++ beBytes 2 (LotFlags.bits h.flags)

/-- The 9-byte bale entry of a later segment. -/
def ticketEntryBytes (e : TicketEntry) : List Byte :=
  beBytes 2 e.bale ++ beBytes 4 e.share ++ beBytes 2 e.moisture
    ++ beBytes 1 (bitsNat [e.flags.short, e.flags.offweight, e.flags.unsettled, e.flags.bookShort, e.found])

/-- Blocks, and so segments, of a ticket with `k` bale entries: 1 + ceil(k/8) (R129). -/
def blocksFor (k : Nat) : Nat := 1 + (k + 7) / 8

def Ticket.segments (t : Ticket) : Nat := blocksFor t.entries.length

/-- The body of segment `i` of a ticket (R138): the header, or the entries 8(i − 1) + 1 to 8i. -/
def segmentBody (t : Ticket) (i : Nat) : List Byte :=
  if i = 0 then ticketHeaderBytes t.header t.entries.length
  else ((t.entries.drop (8 * (i - 1))).take 8).flatMap ticketEntryBytes

/-! ### The device's own frames (11.1) -/

def commandFrameOf (own : Byte) (c : Command) : Frame :=
  ⟨BitVec.ofNat 8 c.node, own, 3, beBytes 1 c.number ++ beBytes 2 c.value⟩

/-- The bytes of a view (log 8): at most 255 parts of 235 bytes, as a reply numbers its parts in one byte (11.2, R190). -/
def viewBytes (v : View) : List Byte := (Config.viewBytes v).take 59925

/-- The bytes of a reply's data. A view part is its part index, the number of parts, and up to 235 bytes of the view. -/
def replyDataBytes : ReplyData → List Byte
  | .bytes bs            => bs
  | .viewPart part parts v =>
    beBytes 1 part ++ beBytes 1 parts ++ (((viewBytes v).drop (235 * part)).take 235)

def replyFrameOf (own : Byte) (r : Reply) : Frame :=
  ⟨BitVec.ofNat 8 r.dst, own, 5, r.tag ++ beBytes 1 (Status.code r.answer.status) ++ replyDataBytes r.answer.data⟩

def reportFrameOf (own : Byte) (r : Report) : Frame :=
  ⟨BitVec.ofNat 8 r.dst, own, 6,
    beBytes 1 ((EventKind.index r.kind).val + 1) ++ beBytes 1 r.count ++ beBytes 1 (r.ctx.kiln.getD 255)
      ++ beBytes 2 (r.ctx.lot.getD 0) ++ beBytes 2 (r.ctx.item.getD 0) ++ beBytes 1 (r.ctx.detail.getD 255)⟩

def ticketFrameOf (own dst : Byte) (s : Segment) : Frame :=
  ⟨dst, own, 7, beBytes 2 s.serial ++ beBytes 1 s.index ++ beBytes 1 s.count ++ s.body⟩

end Sys2Proof.Machine
end

