-- ==== Sys2Proof/Machine/Ops.lean ====
section
/-! DEFINITION. The shared operations on the state that every block uses: the ring link's queues, occurrences, open
choices, and reads of the tables. -/

namespace Sys2Proof.Machine

/-! ### Link counts, own address -/

/-- The node address as a number. -/
def ownAddress (s : State) : Nat := s.rlu.address.toNat

/-- The strapped address lies in the node range (R165, 5.2). -/
def strapOk (s : State) : Bool := decide (1 ≤ ownAddress s ∧ ownAddress s ≤ 126)

/-- The node address as a byte of a frame. -/
def ownByte (s : State) : Byte := BitVec.ofNat 8 (ownAddress s)

/-! ### A block's state changed by a function -/

def onMgu (f : Mgu → Mgu) (s : State) : State := { s with mgu := f s.mgu }
def onItk (f : Itk → Itk) (s : State) : State := { s with itk := f s.itk }
def onKfr (f : Kfr → Kfr) (s : State) : State := { s with kfr := f s.kfr }
def onRct (f : Rct → Rct) (s : State) : State := { s with rct := f s.rct }
def onUar (f : Uar → Uar) (s : State) : State := { s with uar := f s.uar }
def onCfl (f : Cfl → Cfl) (s : State) : State := { s with cfl := f s.cfl }
def onPru (f : Pru → Pru) (s : State) : State := { s with pru := f s.pru }
def onTku (f : Tku → Tku) (s : State) : State := { s with tku := f s.tku }
def onRlu (f : Rlu → Rlu) (s : State) : State := { s with rlu := f s.rlu }

/-- The layer list replaced. -/
def setLayers (ls : List Layer) (s : State) : State := onCfl (fun c => { c with layers := ls }) s

/-- The link view counts changed by a function. -/
def withCounts (f : LinkCounts → LinkCounts) (s : State) : State :=
  onRlu (fun b => { b with counts := f b.counts }) s

/-! ### Open choices (log 4) -/

/-- The next choice of the schedule, 0 when it is used up, and the state with it taken. -/
def takeChoice (s : State) : Nat × State :=
  match s.sched with
  | []      => (0, s)
  | n :: ns => (n, { s with sched := ns })

/-- The list in the order a choice names: its element `n` modulo the length first, then the rest by the quotient. The
choice 0 keeps the order; each order is named by some choice. -/
def arrange {α : Type} : Nat → Nat → List α → List α
  | 0,     _, xs => xs
  | m + 1, n, xs =>
    match xs[n % xs.length]? with
    | none   => xs
    | some x => x :: arrange m (n / xs.length) (xs.eraseIdx (n % xs.length))

/-- A list in the order the schedule chooses. -/
def inChosenOrder {α : Type} (xs : List α) (s : State) : List α × State :=
  let (n, s) := takeChoice s
  (arrange xs.length n xs, s)

/-- One element of a list; where there are several, the one that the schedule chooses. -/
def oneOf {α : Type} : List α → State → Option α × State
  | [],          s => (none, s)
  | [x],         s => (some x, s)
  | x :: y :: r, s =>
    let (n, s') := takeChoice s
    (some ((x :: y :: r).getD (n % (x :: y :: r).length) x), s')

/-! ### Insert queues (R165, R170, R171): with a strap outside the node range whatever is posted is discarded -/

/-- The commands with a new one posted: the value replaced in place for the same actuator, else joined at the tail. -/
def enqueueCommand (c : Command) : List Command → List Command
  | []      => [c]
  | q :: qs => if q.node = c.node ∧ q.number = c.number then c :: qs else q :: enqueueCommand c qs

/-- Post a command to the command queue (R170). -/
def postCommand (c : Command) (s : State) : State :=
  if strapOk s then onRlu (fun b => { b with commands := enqueueCommand c b.commands }) s else s

/-- Post a reply to the reply queue (R171): discarded and counted when 8 wait. -/
def postReply (r : Reply) (s : State) : State :=
  if strapOk s then
    if s.rlu.replies.length < 8 then onRlu (fun b => { b with replies := b.replies ++ [r] }) s
    else withCounts (fun c => { c with repliesDiscarded := bump32 c.repliesDiscarded }) s
  else s

/-- Post a report to the report queue (R171): discarded and counted when 8 wait. -/
def postReport (r : Report) (s : State) : State :=
  if strapOk s then
    if s.rlu.reports.length < 8 then onRlu (fun b => { b with reports := b.reports ++ [r] }) s
    else withCounts (fun c => { c with reportsDiscarded := bump32 c.reportsDiscarded }) s
  else s

/-! ### Occurrences (R185) -/

/-- No context. -/
def noContext : Context := ⟨none, none, none, none⟩

/-- A kiln index as context. -/
def kilnContext (k : Fin 4) : Context := ⟨some k.val, none, none, none⟩

/-- A lot number, or no lot, as context. -/
def lotContext (lot : Option Nat) : Context := ⟨none, lot, none, none⟩

/-- A channel index or source address as detail. -/
def detailContext (d : Nat) : Context := ⟨none, none, none, some d⟩

/-- An occurrence taken by a kind's flag and count: the count holds at 255. -/
def countOccurrence (e : EventCell) : EventCell := { e with flag := true, count := min 255 (e.count + 1) }

/-- Post one occurrence: the count rises, the flag is set, and at a set transition of an enabled kind with a report
destination one report is posted (R185). -/
def postEvent (kind : EventKind) (ctx : Context) (s : State) : State :=
  let e := s.mgu.events.get (EventKind.index kind)
  let s' := onMgu (fun b => { b with events := b.events.set (EventKind.index kind) (countOccurrence e) }) s
  match s.mgu.reportDest with
  | none   => s'
  | some d => if !e.flag && e.enable then postReport ⟨d, kind, min 255 (e.count + 1), ctx⟩ s' else s'

/-! ### The pass buffer (R167) -/

/-- Place a frame in the pass buffer; with both places taken it is dropped and PASS-OVERFLOW posted. Log 19: a frame counts
as forwarded when it is placed. -/
def forward (f : Frame) (s : State) : State :=
  if s.rlu.passBuffer.length < 2 then
    withCounts (fun c => { c with forwarded := bump32 c.forwarded })
      (onRlu (fun b => { b with passBuffer := b.passBuffer ++ [f] }) s)
  else
    postEvent .passOverflow (detailContext f.src.toNat)
      (withCounts (fun c => { c with roomDropped := bump32 c.roomDropped }) s)

/-! ### Channels (R15) -/

/-- The age an absent last arrival time reads as. -/
def noAge : Nat := 4294967295

/-- The present view of a channel entry: an invalid entry reads as UNSEEN, 0, clear, no age. -/
def channelView (now : Time) (c : Channel) : ChannelView :=
  if c.valid then
    ⟨c.state, c.held, c.clamped, c.settled,
      match c.lastArrival with
      | none   => noAge
      | some t => elapsed t now⟩
  else ⟨.unseen, 0, false, false, noAge⟩

/-- The present view of the channel at an index. -/
def viewOf (s : State) (c : Nat) : ChannelView := channelView s.clock (s.channels.getD c Channel.powerOn)

/-- The channel at an index is LIVE. -/
def isLive (s : State) (c : Nat) : Bool := decide ((viewOf s c).state = .live)

/-- The held value of the channel at an index. -/
def heldValue (s : State) (c : Nat) : Int := (viewOf s c).held

/-! ### Time of day (R184) -/

/-- The time of day where it is valid. -/
def validTime (s : State) : Option TimeOfDay := if s.mgu.timeValid then some s.mgu.timeOfDay else none

/-- The present moment as a stamp. -/
def stampNow (s : State) : Stamp := ⟨s.clock, validTime s⟩

/-! ### Tables of the job blocks -/

/-- The device is in started mode. -/
def started (s : State) : Bool := decide (s.mgu.mode = .started)

/-- The kiln setup entry of a kiln. -/
def setupOf (s : State) (k : Fin 4) : KilnSetup := s.kfr.setups.get k

/-- The load record of a kiln. -/
def loadOf (s : State) (k : Fin 4) : LoadRecord := s.kfr.loads.get k

/-- The green total of a load (R49). -/
def greenTotal (r : LoadRecord) : Nat := sat32 (r.contributions.map (·.green)).sum

/-- The dry total D of a load (R49, R153). -/
def dryTotal (r : LoadRecord) : Nat := sat32 (r.contributions.map (·.dry)).sum

/-- The load record of a kiln replaced. -/
def setLoad (k : Fin 4) (r : LoadRecord) (s : State) : State :=
  onKfr (fun b => { b with loads := b.loads.set k r }) s

/-- What a kiln controller holds, changed by a function. -/
def modifyKiln (k : Fin 4) (f : Kiln → Kiln) (s : State) : State := { s with kilns := s.kilns.modify k f }

/-- The net of a kiln: its scale's held value less its load's tare, 0 when negative (R69, R90, R154). -/
def netOf (s : State) (k : Fin 4) : Nat := (heldValue s (setupOf s k).scale - (loadOf s k).tare).toNat

/-- The kiln in state FILLING, if any (R47). -/
def fillingKiln (s : State) : Option (Fin 4) := s.kilns.lowest? (fun k => decide (k.state = .filling))

/-- The live lot record of a slot. -/
def lotAt (s : State) (slot : Fin 32) : Option Lot := s.itk.lots.get slot

/-- The record of a slot replaced, or freed. -/
def setLot (slot : Fin 32) (r : Option Lot) (s : State) : State :=
  onItk (fun b => { b with lots := b.lots.set slot r }) s

/-- The live record of a slot changed by a function; a free slot stays free. -/
def modifyLot (slot : Fin 32) (f : Lot → Lot) (s : State) : State := setLot slot ((lotAt s slot).map f) s

/-- The lot number of a slot's live record. -/
def lotNumberAt (s : State) (slot : Option (Fin 32)) : Option Nat :=
  match slot with
  | none   => none
  | some i => (lotAt s i).map (·.number)

/-- The part of a layer in the floor book: its provisional mass while RECEIVING, else its remaining (R101). -/
def bookMass (l : Layer) : Nat := if l.state = .receiving then l.provisional else l.remaining

/-- The floor book (R101). -/
def floorBook (s : State) : Nat := sat64 (s.cfl.layers.map bookMass).sum

/-- Free blocks of the ticket store (R129). -/
def freeBlocks (s : State) : Nat := 64 - (s.tku.queue.map Ticket.segments).sum

/-- The lowest-indexed valid actuator entry of a function (R48, R93). -/
def actuatorFor (s : State) (f : ActuatorFunction) : Option Actuator :=
  s.actuators.cells.find? (fun a => a.valid && decide (a.function = f))

end Sys2Proof.Machine
end

