-- ==== Sys2Proof/Machine/Flags.lean ====
section
/-! DEFINITION. The conditions the blocks compute from the state: eligibility, the feed permit, the horizon and the press
permit, with the decisions that store the permits. -/

namespace Sys2Proof.Machine

/-! ### Kiln eligibility and room (R46, R52) -/

/-- A kiln is eligible (R46): enabled, EMPTY, its scale LIVE. -/
def eligible (s : State) (k : Fin 4) : Bool :=
  (setupOf s k).enabled && decide ((s.kilns.get k).state = .empty) && isLive s (setupOf s k).scale

/-- Some kiln is eligible. -/
def anyEligible (s : State) : Bool := (List.finRange 4).any (eligible s)

/-- The lowest-indexed eligible kiln (R47). -/
def lowestEligible (s : State) : Option (Fin 4) := (List.finRange 4).find? (eligible s)

/-- The room of a kiln: green capacity less green total, 0 when the total exceeds it (R37, R52). -/
def roomOf (s : State) (k : Fin 4) : Nat := (setupOf s k).greenCapacity - greenTotal (loadOf s k)

/-- The low-room condition (R52): the filling kiln's room is below Q and no kiln is eligible. -/
def lowRoom (s : State) (k : Fin 4) : Bool := decide (roomOf s k < s.mgu.config.feedQuantum) && !anyEligible s

/-! ### Feed permit (R37, R38) -/

/-- A channel of the CONFIG record is LIVE; an invalid record names no channel (R183). -/
def configLive (s : State) (c : Nat) : Bool := s.mgu.configValid && isLive s c

/-- The feed permit and hold cause by the table of R37. -/
def feedDecision (s : State) : Permit × Option FeedCause :=
  if !started s then (.hold, some .notStarted)
  else if s.itk.hookLot.isNone then (.hold, some .noHookLot)
  else if !(configLive s s.mgu.config.beltLoad && configLive s s.mgu.config.beltSpeed) then (.hold, some .beltChannel)
  else
    match fillingKiln s with
    | none   => if anyEligible s then (.go, none) else (.hold, some .noKiln)
    | some k =>
      if lowRoom s k then (.hold, some .noRoom)
      else if anyEligible s || decide (2 * s.mgu.config.feedQuantum ≤ roomOf s k) then (.go, none)
      else (.slow, none)

/-- The lot a FEED-HOLD or TRANSIT-FULL occurrence names: the hook lot, else the head of the intake queue (R38). -/
def hookOrHead (s : State) : Option Nat :=
  match s.itk.hookLot with
  | some i => lotNumberAt s (some i)
  | none   => lotNumberAt s s.itk.queue.head?

/-- Post the DIVERTER command for the diverter kiln (R48). -/
def postDiverter (s : State) : State :=
  match s.kfr.diverter, actuatorFor s .diverter with
  | some k, some a => postCommand ⟨a.node, a.number, k.val⟩ s
  | _, _           => s

/-- Decide the feed permit again (R38): FEED-HOLD on entry to HOLD, and the KFR's DIVERTER command when the permit leaves
HOLD (R48). -/
def decideFeed (s : State) : State :=
  let (permit, cause) := feedDecision s
  let s' := onItk (fun b => { b with permit := permit, cause := cause }) s
  if permit = .hold then
    if s.itk.permit = .hold then s' else postEvent .feedHold (lotContext (hookOrHead s)) s'
  else if s.itk.permit = .hold then postDiverter s' else s'

/-! ### Horizon and press permit (R120, R121) -/

/-- The horizon layers (R120). -/
def horizonLayers (s : State) : List Layer :=
  match s.cfl.layers with
  | []        => []
  | [l]       => if l.state = .ready then [l] else []
  | l :: m :: _ => if l.state = .ready then if m.state = .ready then [l, m] else [l] else []

/-- The horizon in grams (R120). -/
def horizon (s : State) : Nat := ((horizonLayers s).map (·.remaining)).sum

/-- A lot share with grams left whose lot has REFS-FULL. -/
def shareRefsFull (s : State) (sh : Share) : Bool :=
  decide (0 < sh.grams) &&
    match sh.slot with
    | none   => false
    | some i =>
      match lotAt s i with
      | none   => false
      | some l => l.flags.refsFull

/-- The first lot share with REFS-FULL in the horizon layers, in list and share order (R121). -/
def refsFullShare (s : State) : Option Share := ((horizonLayers s).flatMap (·.shares)).find? (shareRefsFull s)

/-- c: the press charge channel's held value, 0 when negative (R120). -/
def chargeOf (s : State) : Nat := (heldValue s s.mgu.config.pressCharge).toNat

/-- The charge limit (R120). -/
def chargeLimit (s : State) : Nat := min (s.mgu.config.baleTarget + s.mgu.config.baleTolerance) (horizon s)

/-- The press permit and hold cause by the table of R120. -/
def pressDecision (s : State) : Permit × Option PressCause :=
  if !started s then (.hold, some .notStarted)
  else
    match s.pru.state with
    | .pressing => (.hold, some .cycle)
    | .weighing => (.hold, some .cycle)
    | .idle     =>
      if (refsFullShare s).isSome then (.hold, some .refsFull)
      else if horizon s = 0 then (.hold, some .noHorizon)
      else if s.mgu.config.baleTarget ≤ horizon s then (.go, none)
      else (.slow, none)
    | .charging =>
      if (refsFullShare s).isSome then (.hold, some .refsFull)
      else if !configLive s s.mgu.config.pressCharge then (.hold, some .chargeChannel)
      else if chargeLimit s ≤ chargeOf s then (.hold, some .chargeLimit)
      else if chargeLimit s - chargeOf s < s.mgu.config.pressSlowBand then (.slow, none)
      else (.go, none)

/-- The context of a PRESS-HOLD occurrence (R121): the lot with REFS-FULL for that cause, else no lot. -/
def pressHoldContext (cause : Option PressCause) (s : State) : Context :=
  if cause = some .refsFull then lotContext ((refsFullShare s).map (·.lotNumber)) else noContext

/-- Decide the press permit again (R121): PRESS-HOLD on entry to HOLD. -/
def decidePress (s : State) : State :=
  let (permit, cause) := pressDecision s
  let s' := onPru (fun b => { b with permit := permit, cause := cause }) s
  if permit = .hold then
    if s.pru.permit = .hold then s' else postEvent .pressHold (pressHoldContext cause s) s'
  else s'

end Sys2Proof.Machine
end

