-- ==== Sys2Proof/Machine/Tickets.lean ====
section
/-! DEFINITION. Chapter 7 and section 2.8: the Ticket Unit, the updates posted to lot records, and the completion test. -/

namespace Sys2Proof.Machine

/-! ### The transmitter (R139, R141, R142) -/

/-- The oldest ticket that is SENDABLE or SENDING. -/
def oldestUnsent (s : State) : Option Ticket := s.tku.queue.find? (fun t => decide (t.state ≠ .sent))

/-- The CREDIT-EXHAUSTED test (R142). -/
def exhaustedTest (s : State) : State :=
  if 0 < s.tku.credits then onTku (fun b => { b with exhausted := false }) s
  else
    match oldestUnsent s with
    | none   => s
    | some t =>
      if s.tku.run && !s.tku.exhausted then
        postEvent .creditExhausted ⟨none, none, some t.serial, none⟩ (onTku (fun b => { b with exhausted := true }) s)
      else s

/-- The next segment of a ticket (R138). -/
def nextSegment (t : Ticket) : Segment := ⟨t.serial, t.next, Ticket.segments t, segmentBody t t.next⟩

/-- The offer test (R139). With a strap outside the node range the slot stays empty (R165). -/
def offerTest (s : State) : State :=
  if s.tku.run && decide (1 ≤ s.tku.credits) && s.rlu.slot.isNone && strapOk s then
    match oldestUnsent s with
    | none   => s
    | some t => onRlu (fun b => { b with slot := some (nextSegment t) }) s
  else s

/-- A segment waiting in the ticket slot is withdrawn (R141). -/
def withdraw (s : State) : State := onRlu (fun b => { b with slot := none }) s

/-- A ticket back at SENDABLE, segment 0 (R137). -/
def rewound (t : Ticket) : Ticket := { t with state := .sendable, next := 0 }

/-- A ticket after its next segment is inserted (R137, R140). -/
def advanced (t : Ticket) : Ticket :=
  if t.next + 1 < Ticket.segments t then { t with state := .sending, next := t.next + 1 } else { t with state := .sent }

/-- The TKU's part of an insertion of the segment of a ticket (R140). -/
def segmentInserted (serial : Nat) (s : State) : State :=
  offerTest (exhaustedTest (onTku (fun b => { b with
    credits := b.credits - 1
    queue := b.queue.map (fun t => if t.serial = serial then advanced t else t) }) s))

/-! ### Building (R128 to R135) -/

/-- The serial the next build gives: the next in sequence that no queued ticket holds (R130). -/
def nextTicketSerial (s : State) : Nat :=
  firstFree 65535 (s.tku.queue.map (·.serial)) s.tku.queue.length s.tku.nextSerial

/-- A ticket's header from the lot's record before the build's update (R131, R133, R161 to R163). A PART ticket's part count
holds at 65535, as the record's does (log 29). -/
def ticketHeader (kind : TicketKind) (l : Lot) (now : Option TimeOfDay) (reference : Nat) : TicketHeader where
  kind := kind
  buildTime := now
  lotNumber := l.number
  grower := l.grower
  variety := l.variety
  openTime := l.openTime
  hookEndTime := l.hookEndTime
  hookTarget := l.hookTarget
  hooks := l.hooks
  partCount := match kind with | .part => bump16 l.partCount | .final => l.partCount
  greenFed := match kind with | .part => none | .final => some (tenths l.greenFed)
  spill := match kind with | .part => none | .final => some (tenths l.spill)
  sweepLoss := match kind with | .part => none | .final => some (tenths l.sweepLoss)
  baledMass := tenths l.baledMass
  deliveredMoisture := deliveredMoisture l.baledMass l.drySum
  settlementGrams := settlementGrams l.drySum reference
  settlementMass := tenths (settlementGrams l.drySum reference)
  reference := reference
  flags := { l.flags with untimed := l.flags.untimed || now.isNone }

/-- The record of the bale log that shows a lot's bale reference (R132). -/
def loggedBale (log : List BaleRecord) (slot : Fin 32) (r : BaleRef) : Option BaleRecord :=
  log.find? (fun b => decide (b.number = r.bale) && b.shares.any (fun sh => decide (sh.slot = some slot ∧ sh.grams = r.share)))

/-- The bale entry of a bale reference (R132). -/
def ticketEntry (log : List BaleRecord) (slot : Fin 32) (r : BaleRef) : TicketEntry where
  bale := r.bale
  share := tenths r.share
  moisture := r.moisture
  flags := match loggedBale log slot r with | none => ⟨false, false, false, false⟩ | some b => b.flags
  found := (loggedBale log slot r).isSome

/-- The part ticket built update (R134). -/
def partBuilt (now : Option TimeOfDay) (l : Lot) : Lot :=
  { l with
    refs := []
    baledMass := 0
    drySum := 0
    partCount := bump16 l.partCount
    flags := { l.flags with refsFull := false, untimed := l.flags.untimed || now.isNone } }

/-- A lot meets the completion test (R40). -/
def completes (s : State) (slot : Fin 32) (l : Lot) : Bool :=
  decide (l.state = .inProcess ∧ l.kilnRefs = 0 ∧ l.floorMass = 0) &&
    match fillingKiln s with
    | none   => true
    | some k => !(loadOf s k).contributions.any (fun c => decide (c.slot = some slot))

/-- The completion test without the build test that follows: a lot that meets it goes COMPLETE and its FINAL entry joins
the wait list (R40, R126). -/
def markComplete (slot : Fin 32) (s : State) : State :=
  match lotAt s slot with
  | none   => s
  | some l =>
    if completes s slot l then
      let s' := setLot slot (some { l with state := .complete }) s
      onTku (fun b => { b with waitList := b.waitList ++ [⟨slot, l.number, .final⟩] }) s'
    else s

/-- The ITK's part of a build (R130 step 5, R134): a part ticket's update, with the completion test and the report of a
cleared REFS-FULL to the PRU, or the record freed. -/
def applyBuild (e : WaitEntry) (l : Lot) (s : State) : State :=
  match e.kind with
  | .final => setLot e.slot none s
  | .part  =>
    let s' := markComplete e.slot (setLot e.slot (some (partBuilt (validTime s) l)) s)
    if l.flags.refsFull then decidePress s' else s'

/-- The PRU's record without a lot's waiting request (R127). -/
def requestBuilt (e : WaitEntry) (s : State) : State :=
  match e.kind with
  | .final => s
  | .part  => onPru (fun b => { b with waiting := b.waiting.filter (fun w => decide (w.1 ≠ e.slot)) }) s

/-- The ticket a wait list entry is built into. -/
def builtTicket (e : WaitEntry) (l : Lot) (s : State) : Ticket where
  serial := nextTicketSerial s
  kind := e.kind
  state := .sendable
  next := 0
  header := ticketHeader e.kind l (validTime s) s.mgu.config.reference
  entries := l.refs.map (ticketEntry s.pru.log e.slot)

/-- The build of the head entry `e` of the wait list, for its lot's record (R130), with the CREDIT-EXHAUSTED and offer
tests that follow a build (R139, R142). -/
def build (e : WaitEntry) (rest : List WaitEntry) (l : Lot) (s : State) : State :=
  let t := builtTicket e l s
  let s1 := onTku (fun b => { b with
    queue := b.queue ++ [t], nextSerial := nextInSequence 65535 t.serial, waitList := rest, blocked := false }) s
  let s2 := applyBuild e l s1
  let s3 := postEvent .ticketReady ⟨none, some e.lotNumber, some t.serial, none⟩ s2
  offerTest (exhaustedTest (requestBuilt e s3))

/-- The head of the wait list built, where the queue and the store have room for it (R128). -/
def buildHead (s : State) : Option State :=
  match s.tku.waitList with
  | []        => none
  | e :: rest =>
    match lotAt s e.slot with
    | none   => none
    | some l =>
      if s.tku.queue.length < 32 ∧ blocksFor l.refs.length ≤ freeBlocks s then some (build e rest l s) else none

/-- Heads built one after another until the head cannot be built. -/
def buildLoop : Nat → State → State
  | 0,     s => s
  | n + 1, s =>
    match buildHead s with
    | none    => s
    | some s' => buildLoop n s'

/-- The blocks that a wait list entry's ticket needs (R129), by its lot's list as it now stands (log 41). -/
def neededBlocks (s : State) (e : WaitEntry) : Nat :=
  match lotAt s e.slot with
  | none   => blocksFor 0
  | some l => blocksFor l.refs.length

/-- The STORE-FULL causes that hold for a head that could not be built (R135): BLOCKS 1, QUEUE 2. -/
def blockedCauses (s : State) (e : WaitEntry) : List Nat :=
  (if freeBlocks s < neededBlocks s e then [1] else []) ++ (if 32 ≤ s.tku.queue.length then [2] else [])

/-- STORE-FULL for a head that could not be built (R135), and the blocked indicator. Where both causes hold, which of them is
given is open (log 35). -/
def blockedTest (s : State) : State :=
  match s.tku.waitList with
  | []     => onTku (fun b => { b with blocked := false }) s
  | e :: _ =>
    if s.tku.blocked then s
    else
      let (cause, s') := oneOf (blockedCauses s e) s
      postEvent .storeFull ⟨none, some e.lotNumber, none, cause⟩ (onTku (fun b => { b with blocked := true }) s')

/-- The build test (R128, R135). Each waiting part ticket may bring one FINAL entry, so twice the list bounds the builds. -/
def buildTest (s : State) : State := blockedTest (buildLoop (2 * s.tku.waitList.length) s)

/-! ### Updates to lot records (R39, R40) -/

/-- The completion test of a lot after an update or on entering IN-PROCESS (R40); the TKU makes the build test when a
FINAL entry joins (R127). -/
def completionTest (slot : Fin 32) (s : State) : State :=
  match lotAt s slot with
  | none   => s
  | some l => if completes s slot l then buildTest (markComplete slot s) else s

/-- An update applied to the live record of a slot, and the completion test (R39). A free slot takes no update. -/
def updateLot (slot : Fin 32) (f : Lot → Lot) (s : State) : State :=
  match lotAt s slot with
  | none   => s
  | some l => completionTest slot (setLot slot (some (f l)) s)

/-- An update applied to the lot of a contribution or share; UNASSIGNED names no lot. -/
def updateSlot (slot : Option (Fin 32)) (f : Lot → Lot) (s : State) : State :=
  match slot with
  | none   => s
  | some i => updateLot i f s

/-- Some flags of a lot set. -/
def withFlags (f : LotFlags → LotFlags) (l : Lot) : Lot := { l with flags := f l.flags }

/-- Spill (R39, R51). -/
def addSpill (grams : Nat) (l : Lot) : Lot :=
  { l with spill := sat32 (l.spill + grams), flags := { l.flags with spill := true } }

/-- Kiln reference (R39). -/
def addKilnRef (l : Lot) : Lot := { l with kilnRefs := l.kilnRefs + 1 }

/-- Contribution retired and floor share, applied together before the completion test (R39). -/
def retire (green share : Nat) (l : Lot) : Lot :=
  { l with
    greenUnloaded := sat32 (l.greenUnloaded + green)
    kilnRefs := l.kilnRefs - 1
    floorMass := sat32 (l.floorMass + share) }

/-- Sweep (R39). -/
def sweep (grams : Nat) (l : Lot) : Lot :=
  { l with
    floorMass := l.floorMass - grams
    sweepLoss := sat32 (l.sweepLoss + grams)
    flags := { l.flags with swept := true } }

/-- Bale share (R39, R117): the reference is appended unless 48 are held, and then REFS-FULL is set. -/
def addBaleShare (share bale moisture : Nat) (b : BaleFlags) (l : Lot) : Lot :=
  { l with
    floorMass := l.floorMass - share
    refs := if l.refs.length < 48 then l.refs ++ [⟨bale, share, moisture⟩] else l.refs
    baledMass := sat32 (l.baledMass + share)
    drySum := sat64 (l.drySum + dryFigure share moisture)
    flags := { l.flags with
      shortBale := l.flags.shortBale || b.short
      unsettled := l.flags.unsettled || b.unsettled
      bookShort := l.flags.bookShort || b.bookShort
      refsFull := l.flags.refsFull || decide (48 ≤ l.refs.length) } }

/-! ### Part-ticket requests (R126, R127) -/

/-- A PART entry placed: at the tail, or immediately ahead of the lot's FINAL entry. -/
def placePart (e : WaitEntry) : List WaitEntry → List WaitEntry
  | []      => [e]
  | w :: ws => if w.slot = e.slot ∧ w.kind = .final then e :: w :: ws else w :: placePart e ws

/-- The slot holds a live record of the lot number. -/
def holdsLot (s : State) (slot : Fin 32) (number : Nat) : Bool :=
  match lotAt s slot with
  | none   => false
  | some l => decide (l.number = number)

/-- A part-ticket request handed over (R127), and whether it was built at once (or no entry was placed). -/
def partRequest (slot : Fin 32) (number : Nat) (s : State) : State × Bool :=
  if holdsLot s slot number then
    let e : WaitEntry := ⟨slot, number, .part⟩
    let s' := buildTest (onTku (fun b => { b with waitList := placePart e b.waitList }) s)
    (s', !s'.tku.waitList.any (fun w => decide (w = e)))
  else (s, true)

end Sys2Proof.Machine
end

