-- ==== Sys2Proof/Machine/Unload.lean ====
section
/-! DEFINITION. Sections 5.1 and 5.2: the unload request list, the grant, and the conveyor command; and the move of a
kiln's state with its report. -/

namespace Sys2Proof.Machine

/-- A kiln's state moved, and reported to the ITK, which decides the feed permit again (R38, R64). -/
def moveKiln (k : Fin 4) (st : KilnState) (s : State) : State :=
  decideFeed (modifyKiln k (fun kl => { kl with state := st }) s)

/-- Post the UNLOAD-CONVEYOR command (R93). -/
def postConveyor (value : Nat) (s : State) : State :=
  match actuatorFor s .unloadConveyor with
  | none   => s
  | some a => postCommand ⟨a.node, a.number, value⟩ s

/-- The UAR's present command: 1000 while a grant record is present (R93). -/
def postPresentConveyor (s : State) : State := postConveyor (if s.uar.grant.isSome then 1000 else 0) s

/-- The number that the next layer gets: the next in sequence that no listed layer holds (R99, log 37). -/
def nextLayerNumber (s : State) : Nat := firstFree 255 (s.cfl.layers.map (·.number)) s.cfl.layers.length s.cfl.nextNumber

/-- The RECEIVING layer appended at a grant (R92, R99). -/
def receivingLayer (s : State) (k : Fin 4) : Layer where
  number := nextLayerNumber s
  kiln := k
  serial := (loadOf s k).serial.getD 0
  state := .receiving
  provisional := netOf s k
  mass := 0
  remaining := 0
  moisture := (s.kilns.get k).estimate
  shares := []
  unloadTime := none
  restDue := none
  forced := (s.kilns.get k).forced

/-- The grant record made for a kiln (R90, R92). -/
def grantFor (s : State) (k : Fin 4) : Grant where
  kiln := k
  layer := nextLayerNumber s
  net := netOf s k
  moisture := (s.kilns.get k).estimate
  time := s.clock
  overrun := some (after s.clock (60000 * s.mgu.config.unloadTimeout))
  settle := none

/-- The grant to the head kiln `k`, leaving `rest` in the request list (R92). -/
def grantKiln (k : Fin 4) (rest : List (Fin 4)) (s : State) : State :=
  let made := onUar (fun _ => ⟨rest, some (grantFor s k)⟩) s
  let listed := onCfl (fun c => ⟨c.layers ++ [receivingLayer s k], nextInSequence 255 (nextLayerNumber s)⟩) made
  let stopped := modifyKiln k (fun kl => { kl with evalDeadline := none, overdry := none }) (decidePress listed)
  postConveyor 1000 (moveKiln k .unloading stopped)

/-- The conditions under which the conveyor is granted to the head kiln (R91). -/
def canGrant (s : State) (k : Fin 4) : Bool :=
  s.uar.grant.isNone && decide (s.cfl.layers.length < 16) &&
    decide (floorBook s + netOf s k ≤ s.mgu.config.floorCapacity)

/-- The grant test (R91), made on the head alone. -/
def grantTest (s : State) : State :=
  match s.uar.requests with
  | []        => s
  | k :: rest => if canGrant s k then grantKiln k rest s else s

/-- A kiln that enters ENDPOINT joins the request list's tail, and the grant test is made (R89, R91). -/
def joinRequests (k : Fin 4) (s : State) : State :=
  grantTest (onUar (fun b => { b with requests := b.requests ++ [k] }) s)

end Sys2Proof.Machine
end

