-- ==== Sys2Proof/Machine/Kilns.lean ====
section
/-! DEFINITION. Chapter 4: what a kiln controller does at a drying start, a hold, a resume, an evaluation and an endpoint. -/

namespace Sys2Proof.Machine

/-! ### Commands (R74) -/

/-- The kiln's actuator entry of an index is usable: valid, of the function, and serving this kiln (R74). -/
def bound (s : State) (k : Fin 4) (index : Nat) (f : ActuatorFunction) : Bool :=
  let a := s.actuators.getD index Actuator.powerOn
  a.valid && decide (a.function = f ∧ a.kiln = k)

/-- Post a value to the actuator entry of an index. -/
def postTo (s : State) (index value : Nat) : State :=
  let a := s.actuators.getD index Actuator.powerOn
  postCommand ⟨a.node, a.number, value⟩ s

/-- Post a BURNER command for a kiln; an unbound burner's command is not posted (R74). -/
def postBurner (k : Fin 4) (value : Nat) (s : State) : State :=
  if bound s k (setupOf s k).burner .burner then
    postTo (modifyKiln k (fun kl => { kl with burnerBound := true, lastBurner := some value }) s) (setupOf s k).burner value
  else modifyKiln k (fun kl => { kl with burnerBound := false }) s

/-- Post a FAN command for a kiln; an unbound fan's command is not posted (R74). -/
def postFan (k : Fin 4) (value : Nat) (s : State) : State :=
  if bound s k (setupOf s k).fan .fan then
    postTo (modifyKiln k (fun kl => { kl with fanBound := true, lastFan := some value }) s) (setupOf s k).fan value
  else modifyKiln k (fun kl => { kl with fanBound := false }) s

/-- A stage of a kiln's running recipe, counted from 1. -/
def stageAt (kl : Kiln) (i : Nat) : Stage :=
  match kl.running with
  | none   => ⟨0, 0, 0, .time, 0, 0, 0⟩
  | some r => r.copy.stages.getD (i - 1) ⟨0, 0, 0, .time, 0, 0, 0⟩

/-- The burner value of a drying kiln: the lesser of setpoint and ceiling, 0 if below 0 (R74). -/
def dryingBurner (s : State) (k : Fin 4) : Nat :=
  (min (s.kilns.get k).setpoint ((setupOf s k).ceiling : Int)).toNat

/-- The commands of a drying start, an evaluation in DRYING and a resume, in stage `i` (R74). -/
def postDrying (k : Fin 4) (i : Nat) (s : State) : State :=
  postFan k (stageAt (s.kilns.get k) i).fan (postBurner k (dryingBurner s k) s)

/-- The commands of HELD in stage `i` (R74). -/
def postHeld (k : Fin 4) (i : Nat) (s : State) : State :=
  postFan k (stageAt (s.kilns.get k) i).fan (postBurner k 0 s)

/-- The commands of ENDPOINT (R74). -/
def postEndpoint (k : Fin 4) (s : State) : State := postFan k (setupOf s k).holdFan (postBurner k 0 s)

/-! ### Holding (R77 to R80) -/

/-- Causes taken together. -/
def joinCauses (a b : HoldCauses) : HoldCauses :=
  ⟨a.plenum || b.plenum, a.overtemp || b.overtemp, a.operator || b.operator⟩

/-- A cause of a hold: a DRYING kiln enters HELD with it, a HELD kiln adds it, any other kiln passes over it (R77 to R80). -/
def holdKiln (k : Fin 4) (cause : HoldCauses) (s : State) : State :=
  match (s.kilns.get k).state with
  | .drying i =>
    let s1 := moveKiln k (.held i) s
    let s2 := modifyKiln k (fun kl => { kl with causes := cause, debounce := 0 }) s1
    postEvent .kilnHeld (kilnContext k) (postHeld k i s2)
  | .held _ => modifyKiln k (fun kl => { kl with causes := joinCauses kl.causes cause }) s
  | _ => s

def plenumCause : HoldCauses := ⟨true, false, false⟩
def overtempCause : HoldCauses := ⟨false, true, false⟩
def operatorCause : HoldCauses := ⟨false, false, true⟩

/-! ### Load flags (R39, R69, R71, R82) -/

/-- An update posted for each lot contribution of a kiln's load, in list order. -/
def forEachLot (k : Fin 4) (f : Lot → Lot) (s : State) : State :=
  (loadOf s k).contributions.foldl (fun s c => updateSlot c.slot f s) s

/-- The load's scale-suspect flag set, and SCALE-SUSPECT posted on its lots. -/
def markSuspect (k : Fin 4) (s : State) : State :=
  forEachLot k (withFlags (fun f => { f with scaleSuspect := true })) (setLoad k { loadOf s k with suspect := true } s)

/-! ### Drying start (R66 to R69) -/

/-- The recipe of a number, where the number names one of the eight. -/
def recipeOf (s : State) (n : Nat) : Recipe := if n = 0 then ⟨0, []⟩ else s.rct.recipes.getD (n - 1) ⟨0, []⟩

/-- The kiln's assigned recipe names a recipe that is not empty (R66). -/
def hasRecipe (s : State) (k : Fin 4) : Bool := !(recipeOf s (setupOf s k).recipe).stages.isEmpty

/-- The difference of net and booked green exceeds the tolerance (R69). -/
def mismatched (s : State) (k : Fin 4) : Bool :=
  let net := netOf s k
  let green := greenTotal (loadOf s k)
  decide (s.mgu.config.mismatch * green < ((net - green) + (green - net)) * 1000)

/-- The load mismatch check (R69). -/
def mismatchCheck (k : Fin 4) (s : State) : State :=
  if isLive s (setupOf s k).scale then
    if mismatched s k then postEvent .loadMismatch (kilnContext k) (markSuspect k s) else s
  else postEvent .scaleSuspect (kilnContext k) (markSuspect k s)

/-- The evaluation timer armed (R70): E seconds on. -/
def armTimer (k : Fin 4) (s : State) : State :=
  modifyKiln k (fun kl => { kl with evalDeadline := some (after s.clock (1000 * s.mgu.config.evalInterval)) }) s

/-- The setpoint a drying start begins from (R68 step 3). -/
def startSetpoint (s : State) (k : Fin 4) : Int :=
  if isLive s (setupOf s k).plenum then clampInt 0 (setupOf s k).ceiling (heldValue s (setupOf s k).plenum) else 300

/-- A drying start (R68). -/
def startDrying (k : Fin 4) (s : State) : State :=
  let number := (setupOf s k).recipe
  let copy := recipeOf s number
  let s1 := modifyKiln k (fun kl => { kl with running := some ⟨number, copy⟩, rest := copy.rest }) s
  let s2 := mismatchCheck k s1
  let s3 := modifyKiln k (fun kl => { kl with
    setpoint := startSetpoint s2 k, elapsed := 0, debounce := 0, suspectRun := false }) s2
  let s4 := armTimer k (moveKiln k (.drying 1) s3)
  let s5 := postDrying k 1 s4
  if isLive s5 (setupOf s5 k).plenum then s5 else holdKiln k plenumCause s5

/-! ### Evaluation (R70 to R73, R76, R80) -/

/-- The moisture estimate formed at an evaluation (R71, R154). -/
def formEstimate (k : Fin 4) (s : State) : State :=
  if isLive s (setupOf s k).scale then
    let (m, suspect) := moistureEstimate (netOf s k) (dryTotal (loadOf s k))
    if suspect then
      let s1 := modifyKiln k (fun kl => { kl with estimate := m, suspectRun := true }) s
      if (s.kilns.get k).suspectRun then s1
      else postEvent .scaleSuspect (kilnContext k) (if (loadOf s k).suspect then s1 else markSuspect k s1)
    else modifyKiln k (fun kl => { kl with estimate := m, suspectRun := false }) s
  else modifyKiln k (fun kl => { kl with debounce := 0 }) s

/-- The setpoint moved toward a stage's setpoint over one interval (R71). -/
def rampSetpoint (st : Stage) (interval : Nat) (sp : Int) : Int :=
  let t : Int := st.setpoint
  if st.ramp = 0 then t
  else
    let step : Int := max 1 (st.ramp * interval / 60)
    if sp < t then (if t - sp ≤ step then t else sp + step) else (if sp - t ≤ step then t else sp - step)

/-- An evaluation meets the threshold of an RH or MOISTURE stage (R72). -/
def meetsThreshold (s : State) (k : Fin 4) (st : Stage) : Bool :=
  match st.endKind with
  | .time     => false
  | .rh       => isLive s (setupOf s k).exhaust && decide (heldValue s (setupOf s k).exhaust ≤ st.threshold)
  | .moisture => isLive s (setupOf s k).scale && decide ((s.kilns.get k).estimate ≤ st.threshold)

/-- The debounce count after an evaluation (R72); TIME does not use it. -/
def debounced (s : State) (k : Fin 4) (st : Stage) : Nat :=
  match st.endKind with
  | .time => (s.kilns.get k).debounce
  | _     => if meetsThreshold s k st then min 3 ((s.kilns.get k).debounce + 1) else 0

/-- The stage's end condition is met (R72). -/
def conditionMet (kl : Kiln) (st : Stage) : Bool :=
  match st.endKind with
  | .time => decide (st.max * 60 ≤ kl.elapsed)
  | _     => decide (kl.debounce = 3 ∧ st.min * 60 ≤ kl.elapsed)

/-- Entry to ENDPOINT (R75). -/
def enterEndpoint (k : Fin 4) (s : State) : State :=
  let s1 := modifyKiln k (fun kl => { kl with debounce := 0, causes := ⟨false, false, false⟩ }) (moveKiln k .endpoint s)
  let s2 := modifyKiln k (fun kl => { kl with
    endpointTime := some (stampNow s1)
    overdry := some (after s1.clock (60000 * s1.mgu.config.overdryLimit)) }) s1
  postEvent .endpoint (kilnContext k) (joinRequests k (postEndpoint k s2))

/-- The stages of a kiln's running recipe. -/
def stageCount (kl : Kiln) : Nat :=
  match kl.running with
  | none   => 0
  | some r => r.copy.stages.length

/-- The end of stage `i` at an evaluation, with an overrun or without (R73). -/
def endStage (k : Fin 4) (i : Nat) (overrun : Bool) (s : State) : State :=
  let s1 := if overrun then postEvent .stageOverrun (kilnContext k) s else s
  if i < stageCount (s1.kilns.get k) then
    let s2 := modifyKiln k (fun kl => { kl with elapsed := 0, debounce := 0 }) (moveKiln k (.drying (i + 1)) s1)
    postDrying k (i + 1) s2
  else enterEndpoint k s1

/-- The evaluation in DRYING, stage `i` (R71 to R74). Stage elapsed holds at the top of its range, 86,400 s (R65, log 29). -/
def evaluateDrying (k : Fin 4) (i : Nat) (s : State) : State :=
  let st := stageAt (s.kilns.get k) i
  let e := s.mgu.config.evalInterval
  let s1 := modifyKiln k (fun kl => { kl with elapsed := min 86400 (kl.elapsed + e), setpoint := rampSetpoint st e kl.setpoint }) s
  let s2 := formEstimate k s1
  let s3 := modifyKiln k (fun kl => { kl with debounce := debounced s2 k st }) s2
  if conditionMet (s3.kilns.get k) st then endStage k i false s3
  else if st.max * 60 ≤ (s3.kilns.get k).elapsed then endStage k i true s3
  else postDrying k i s3

/-- The load of a kiln is the UNASSIGNED load of a forced end from ORPHAN (R76, R83). -/
def unassignedLoad (s : State) (k : Fin 4) : Bool := (loadOf s k).contributions.any (fun c => c.slot.isNone)

/-- An expiry of a kiln's evaluation timer (R70): armed again, then the evaluation of the present state. -/
def evaluate (k : Fin 4) (s : State) : State :=
  let s1 := armTimer k s
  match (s1.kilns.get k).state with
  | .drying i => evaluateDrying k i s1
  | .held i   => postHeld k i (formEstimate k s1)
  | .endpoint => postEndpoint k (if unassignedLoad s1 k then s1 else formEstimate k s1)
  | _         => s1

/-! ### Resume, forced end, empty (R65, R81 to R83) -/

/-- A HELD kiln of stage `i` resumes (R81). -/
def resume (k : Fin 4) (i : Nat) (s : State) : State :=
  let s1 := modifyKiln k (fun kl => { kl with causes := ⟨false, false, false⟩ }) s
  postDrying k i (moveKiln k (.drying i) s1)

/-- The FORCED flag of a kiln set, and of its load's lots (R82 steps 1 and 2). -/
def markForced (k : Fin 4) (s : State) : State :=
  forEachLot k (withFlags (fun f => { f with forced := true })) (modifyKiln k (fun kl => { kl with forced := true }) s)

/-- A forced end from DRYING or HELD (R82): the rest time is that of the running recipe. -/
def forceRunning (k : Fin 4) (s : State) : State :=
  let s1 := markForced k s
  enterEndpoint k (modifyKiln k (fun kl => { kl with rest := match kl.running with | none => kl.rest | some r => r.copy.rest }) s1)

/-- A forced end from LOADED (R82). -/
def forceLoaded (k : Fin 4) (s : State) : State :=
  let s1 := markForced k s
  let s2 := modifyKiln k (fun kl => { kl with rest := (recipeOf s1 (setupOf s1 k).recipe).rest }) s1
  enterEndpoint k (armTimer k (formEstimate k s2))

/-- The UNASSIGNED load of a forced end from ORPHAN (R83 steps 1 and 2). -/
def orphanLoad (s : State) (k : Fin 4) : LoadRecord :=
  let green := sat32 (heldValue s (setupOf s k).scale).toNat
  let r := s.mgu.config.reference
  ⟨some s.kfr.nextSerial, [⟨none, 0, green, r, dryMatter green r⟩], 0, false⟩

/-- A forced end from ORPHAN (R83). -/
def forceOrphan (k : Fin 4) (s : State) : State :=
  let s1 := setLoad k (orphanLoad s k) s
  let s2 := onKfr (fun b => { b with nextSerial := nextInSequence 65535 b.nextSerial }) s1
  let s3 := modifyKiln k (fun kl => { kl with
    forced := true, estimate := s2.mgu.config.reference, rest := 0, running := none }) s2
  enterEndpoint k (armTimer k s3)

/-- A kiln enters EMPTY (R65, R49): its load record is cleared, and every field but burner and fan bound and the values last
posted (log 23) returns to its power-on value. -/
def emptyKiln (k : Fin 4) (s : State) : State :=
  moveKiln k .empty (modifyKiln k (fun kl => { Kiln.powerOn with
    state := kl.state, burnerBound := kl.burnerBound, fanBound := kl.fanBound
    lastBurner := kl.lastBurner, lastFan := kl.lastFan }) (setLoad k LoadRecord.cleared s))

end Sys2Proof.Machine
end

