-- ==== Sys2Proof/Machine/Fill.lean ====
section
/-! DEFINITION. Chapter 3: the selection of a filling kiln, the entry into LOADED, and the placing of a carry. -/

namespace Sys2Proof.Machine

/-- The new load record of a kiln chosen to fill (R47 steps 1 and 2). -/
def newLoad (s : State) (k : Fin 4) : LoadRecord :=
  ⟨some s.kfr.nextSerial, [], (heldValue s (setupOf s k).scale).toNat, false⟩

/-- A kiln chosen to fill (R47 steps 1 to 4, R48). -/
def chooseKiln (k : Fin 4) (s : State) : State :=
  let s1 := setLoad k (newLoad s k) s
  let s2 := onKfr (fun b => { b with nextSerial := nextInSequence 65535 b.nextSerial }) s1
  let s3 := moveKiln k .filling s2
  postDiverter (onKfr (fun b => { b with diverter := some k }) s3)

/-- The selection test (R47). -/
def selectKiln (s : State) : State :=
  if started s && (fillingKiln s).isNone && (s.itk.hookLot.isSome || s.itk.weighLot.isSome) then
    match lowestEligible s with
    | none   => s
    | some k => chooseKiln k s
  else s

/-- A kiln whose fill closes enters LOADED (R54); the values last posted are forgotten (R86, log 23). -/
def enterLoaded (k : Fin 4) (s : State) : State :=
  let s1 := moveKiln k .loaded (modifyKiln k (fun kl => { kl with lastBurner := none, lastFan := none }) s)
  let s2 := forEachLot k addKilnRef s1
  let s3 := if (setupOf s2 k).autostart && hasRecipe s2 k then startDrying k s2 else s2
  selectKiln s3

/-- The low-room close (R52). -/
def lowRoomClose (s : State) : State :=
  match fillingKiln s with
  | none   => s
  | some k => if lowRoom s k then enterLoaded k s else s

/-- The capacity close of a FILLING kiln (R52). -/
def capacityClose (k : Fin 4) (s : State) : State :=
  if (setupOf s k).greenCapacity ≤ greenTotal (loadOf s k) then enterLoaded k s else s

/-- A load holds a contribution for a lot slot. -/
def holdsContribution (r : LoadRecord) (slot : Fin 32) : Bool := r.contributions.any (fun c => decide (c.slot = some slot))

/-- Grams added to the contribution of a lot, whose dry is formed again from its whole green (R50, R153). -/
def growContribution (slot : Fin 32) (grams : Nat) (r : LoadRecord) : LoadRecord :=
  { r with contributions := r.contributions.map (fun c =>
      if c.slot = some slot then
        { c with green := sat32 (c.green + grams), dry := dryMatter (sat32 (c.green + grams)) c.w }
      else c) }

/-- A contribution appended for a lot (R50). -/
def addContribution (slot : Fin 32) (l : Lot) (grams : Nat) (r : LoadRecord) : LoadRecord :=
  { r with contributions := r.contributions ++
      [⟨some slot, l.number, sat32 grams, l.greenMoisture, dryMatter (sat32 grams) l.greenMoisture⟩] }

/-- A carry placed in a kiln's load, which clears the spill-run marker (R51). -/
def creditLoad (k : Fin 4) (f : LoadRecord → LoadRecord) (s : State) : State :=
  let s' := setLoad k (f (loadOf s k)) s
  onKfr (fun b => { b with spillRun := none }) s'

/-- A carry credited to a FILLING kiln: the green total is reported to the ITK, then the closes of R52 are tested. -/
def creditFilling (k : Fin 4) (f : LoadRecord → LoadRecord) (s : State) : State :=
  lowRoomClose (capacityClose k (decideFeed (creditLoad k f s)))

/-- A carry spilled (R51). -/
def spillCarry (slot : Fin 32) (l : Lot) (grams : Nat) (s : State) : State :=
  let s1 := updateLot slot (addSpill grams) s
  let s2 :=
    if (s.kfr.spillRun.map Prod.fst) = some slot then s1
    else postEvent .spill ⟨s.kfr.diverter.map (·.val), some l.number, none, none⟩ s1
  onKfr (fun b => { b with spillRun := some (slot, l.number) }) s2

/-- The placing of a carry by the table of R50; after a seventh-lot close the carry is placed again by the table (R53). -/
def placeByTable : Nat → Fin 32 → Lot → Nat → State → State
  | 0,     slot, l, grams, s => spillCarry slot l grams s
  | n + 1, slot, l, grams, s =>
    match s.kfr.diverter with
    | none   => spillCarry slot l grams s
    | some k =>
      match (s.kilns.get k).state with
      | .filling =>
        if holdsContribution (loadOf s k) slot then creditFilling k (growContribution slot grams) s
        else if (loadOf s k).contributions.length < 6 then creditFilling k (addContribution slot l grams) s
        else placeByTable n slot l grams (enterLoaded k s)
      | .loaded =>
        if holdsContribution (loadOf s k) slot then creditLoad k (growContribution slot grams) s
        else if (loadOf s k).contributions.length < 6 then
          updateLot slot addKilnRef (creditLoad k (addContribution slot l grams) s)
        else spillCarry slot l grams s
      | _ => spillCarry slot l grams s

/-- A carry of the ITK placed whole (R34, R50), the selection test first when no kiln is FILLING. -/
def placeCarry (slot : Fin 32) (grams : Nat) (s : State) : State :=
  match lotAt s slot with
  | none   => s
  | some l => placeByTable 2 slot l grams (if (fillingKiln s).isNone then selectKiln s else s)

end Sys2Proof.Machine
end

