-- ==== Sys2Proof/Machine/Intake.lean ====
section
/-! DEFINITION. Chapter 2: hooking, the transit list and the weigh lot, and the belt integration. -/

namespace Sys2Proof.Machine

/-- The due time of a transit entry appended now (R30). -/
def transitDue (s : State) : Time := after s.clock (1000 * s.mgu.config.transitDelay)

/-- A transit entry appended at the tail (R30). -/
def appendTransit (lot : Option (Fin 32)) (s : State) : State :=
  onItk (fun b => { b with transit := b.transit ++ [⟨lot, transitDue s⟩] }) s

/-- TRANSIT-FULL posted when a deferral begins and neither was held before (R32). -/
def transitFull (held : Bool) (s : State) : State :=
  if held then s else postEvent .transitFull (lotContext (lotNumberAt s s.itk.queue.head?)) s

/-- A deferred hooking start or a pending boundary is held (R32). -/
def deferralHeld (s : State) : Bool := s.itk.deferred || s.itk.boundary

/-- The head of the intake queue starts hooking (R25): its transit entry is appended and a pending boundary discarded. The
KFR hears of the hook lot and makes its selection test (R47). -/
def startHooking (slot : Fin 32) (rest : List (Fin 32)) (s : State) : State :=
  let s1 := modifyLot slot (fun l => { l with state := .hooking }) s
  selectKiln (appendTransit (some slot) (onItk (fun b => { b with
    queue := rest, hookLot := some slot, deferred := false, boundary := false }) s1))

/-- The hooking start test (R25), with the deferral of R32 where the transit list alone stands in the way. -/
def hookingTest (s : State) : State :=
  if started s && s.itk.hookLot.isNone then
    match s.itk.queue with
    | []           => s
    | slot :: rest =>
      if s.itk.transit.length < 4 then startHooking slot rest s
      else transitFull (deferralHeld s) (onItk (fun b => { b with deferred := true }) s)
  else s

/-- The boundary entry of a hooking end with the intake queue empty, held as the pending boundary when the transit list is
full (R29 step 4, R32). -/
def appendBoundary (s : State) : State :=
  if s.itk.transit.length < 4 then appendTransit none s
  else transitFull (deferralHeld s) (onItk (fun b => { b with boundary := true }) s)

/-- A lot whose hooking ends now (R29 step 1). -/
def endedHooking (now : Option TimeOfDay) (l : Lot) : Lot :=
  { l with
    state := .inTransit
    hookEndTime := now
    flags := { l.flags with untimed := l.flags.untimed || now.isNone } }

/-- The end of hooking of the hook lot `slot` (R29), and the feed permit's decision after it (R38, log 15). -/
def endHooking (slot : Fin 32) (s : State) : State :=
  let s1 := modifyLot slot (endedHooking (validTime s)) s
  let s2 := onItk (fun b => { b with hookLot := none }) s1
  decideFeed (if s2.itk.queue.isEmpty then appendBoundary s2 else hookingTest s2)

/-- One hook counted to a lot (R26). -/
def countHook (slot : Fin 32) (s : State) : State := modifyLot slot (fun l => { l with hooks := bump16 l.hooks }) s

/-- The hook lot has reached its target (R26). -/
def targetReached (s : State) (slot : Fin 32) : Bool :=
  match lotAt s slot with
  | none   => false
  | some l => decide (l.hookTarget ≠ 0 ∧ l.hooks = l.hookTarget)

/-- The head transit entry falls due (R31). -/
def transitSwitch (e : TransitEntry) (rest : List TransitEntry) (s : State) : State :=
  let s1 := onItk (fun b => { b with transit := rest }) s
  let s2 :=
    match s1.itk.weighLot with
    | none   => s1
    | some w => completionTest w (modifyLot w (fun l => { l with state := .inProcess }) s1)
  let s3 := onItk (fun b => { b with accumulator := 0, weighLot := e.lot }) s2
  let s4 := if e.lot.isSome then selectKiln s3 else s3
  let s5 := if s4.itk.boundary then appendTransit none (onItk (fun b => { b with boundary := false }) s4) else s4
  decideFeed (hookingTest s5)

/-! ### Belt integration (R33 to R36, R151, R152) -/

/-- GAP set on the weigh lot, if there is one. -/
def markGap (s : State) : State :=
  match s.itk.weighLot with
  | none   => s
  | some w => modifyLot w (withFlags (fun f => { f with gap := true })) s

/-- Twice the expected period of the belt load channel, in milliseconds (R33, R1). -/
def beltCap (s : State) (c : Nat) : Nat := 2 * (100 * 2 ^ (s.channels.getD c Channel.powerOn).exponent)

/-- The interval since the previous belt arrival, before the cap (R33). -/
def beltInterval (s : State) (now : Time) : Nat :=
  match s.itk.prevBelt with
  | none   => 0
  | some t => elapsed t now

/-- The grams carried from the accumulator to the weigh lot and the KFR (R34); without a weigh lot they are discarded (R36). -/
def carryGrams (grams : Nat) (s : State) : State :=
  match s.itk.weighLot with
  | none   => s
  | some w =>
    if grams = 0 then s
    else placeCarry w grams (modifyLot w (fun l => { l with greenFed := sat32 (l.greenFed + grams) }) s)

/-- The increment of a belt load arrival added and carried (R34, R151, R152), or a belt in reverse (R35). -/
def beltIncrease (load dt : Nat) (s : State) : State :=
  let v := heldValue s s.mgu.config.beltSpeed
  if v < 0 then
    if s.itk.reversing then s
    else postEvent .beltReverse (lotContext (lotNumberAt s s.itk.weighLot)) (onItk (fun b => { b with reversing := true }) s)
  else
    let sum := s.itk.accumulator + beltIncrement load v.toNat dt
    carryGrams (sum / 1000000) (onItk (fun b => { b with accumulator := sum % 1000000, reversing := false }) s)

/-- The belt integration on an arrival notice of the belt load channel `c` (R33 to R35). -/
def beltArrival (c : Nat) (value : Int) (now : Time) (s : State) : State :=
  let interval := beltInterval s now
  let capped := decide (beltCap s c < interval)
  let s1 := onItk (fun b => { b with prevBelt := some now }) s
  let s2 := if capped || !isLive s1 s1.mgu.config.beltSpeed then markGap s1 else s1
  beltIncrease (clampInt 0 60000 value).toNat (min interval (beltCap s c)) s2

end Sys2Proof.Machine
end

