-- ==== Sys2Proof/Machine/Floor.lean ====
section
/-! DEFINITION. Sections 5.3 and 5.4: unload completion, the settle test, the overrun and the layer list. -/

namespace Sys2Proof.Machine

/-! ### Filling in a layer (R97) -/

/-- The parts of `u` over the contributions of a load, in list order; all 0 when the dry sums to 0. -/
def contributionParts (u : Nat) (cs : List Contribution) : List Nat :=
  (split u (cs.map (·.dry))).getD (cs.map (fun _ => 0))

/-- The lot shares of a layer: one for each lot contribution with a part above 0, in contribution order. -/
def lotShares : List (Contribution × Nat) → List Share
  | []           => []
  | (c, p) :: cs => if c.slot.isSome && decide (0 < p) then ⟨c.slot, c.lotNumber, p⟩ :: lotShares cs else lotShares cs

/-- The grams of an UNASSIGNED share, last in its list; none when 0. -/
def unassignedShare (grams : Nat) : List Share := if grams = 0 then [] else [⟨none, 0, grams⟩]

/-- The shares of a layer of mass `u` from a load's contributions: what no lot share takes is the UNASSIGNED share. -/
def layerShares (u : Nat) (cs : List Contribution) : List Share :=
  let lots := lotShares (cs.zip (contributionParts u cs))
  lots ++ unassignedShare (u - (lots.map (·.grams)).sum)

/-- The rest due time of a layer filled in now: none with no rest time. -/
def restDueFor (s : State) (rest : Nat) : Option Time := if rest = 0 then none else some (after s.clock (60000 * rest))

/-- A RECEIVING layer filled in with mass `u` (R97, R100). -/
def filledLayer (s : State) (g : Grant) (u : Nat) (l : Layer) : Layer :=
  let kl := s.kilns.get g.kiln
  { l with
    state := if kl.rest = 0 then .ready else .resting
    mass := u
    remaining := u
    moisture := g.moisture
    shares := layerShares u (loadOf s g.kiln).contributions
    unloadTime := some (stampNow s)
    restDue := restDueFor s kl.rest
    forced := l.forced || kl.forced }

/-- The layer that a grant's mass goes into: RECEIVING, with the number in the grant record (R92, R100). -/
def receives (g : Grant) (l : Layer) : Bool := decide (l.state = .receiving ∧ l.number = g.layer)

/-- The layer of the grant record filled in, or removed with `u` 0 (R97). -/
def fillLayer (g : Grant) (u : Nat) (s : State) : State :=
  let ls := s.cfl.layers
  setLayers (if u = 0 then ls.filter (fun l => !receives g l)
    else ls.map (fun l => if receives g l then filledLayer s g u l else l)) s

/-! ### Unload completion (R96) -/

/-- The retired and floor share updates of a load, in contribution order (R96 step 4). -/
def retireAll (parts : List (Contribution × Nat)) (s : State) : State :=
  parts.foldl (fun s p => updateSlot p.1.slot (retire p.1.green p.2) s) s

/-- Unload completion (R96). -/
def completeUnload (g : Grant) (s : State) : State :=
  let u := g.net - netOf s g.kiln
  let cs := (loadOf s g.kiln).contributions
  let s1 := retireAll (cs.zip (contributionParts u cs)) (fillLayer g u s)
  let s2 := emptyKiln g.kiln (onUar (fun b => { b with grant := none }) s1)
  selectKiln (grantTest (decidePress (postConveyor 0 s2)))

/-! ### The settle test and the overrun (R95, R98) -/

/-- The settle deadline of a grant record changed. -/
def setSettle (d : Option Time) (s : State) : State :=
  onUar (fun b => { b with grant := b.grant.map (fun g => { g with settle := d }) }) s

/-- The settle deadline after an arrival at time `t` that left the unloading kiln at `net` (R95). -/
def settleAfter (s : State) (net : Nat) (t : Time) (present : Option Time) : Option Time :=
  if net ≤ s.mgu.config.emptyThreshold then
    match present with
    | some d => some d
    | none   => some (after t (1000 * s.mgu.config.unloadSettle))
  else none

/-- The settle test on a notice of the unloading kiln's scale (R95). -/
def settleNotice (g : Grant) (n : Notice) (s : State) : State :=
  if n.arrival then setSettle (settleAfter s (n.value - (loadOf s g.kiln).tare).toNat n.time g.settle) s
  else if n.before = .live then setSettle none s
  else s

/-- Some kiln setup entry names the channel as its scale. -/
def namedAsScale (s : State) (c : Nat) : Bool := (List.finRange 4).any (fun k => decide ((setupOf s k).scale = c))

/-- The head of the request list has the channel as its scale. -/
def headScale (s : State) (c : Nat) : Bool :=
  match s.uar.requests with
  | []     => false
  | k :: _ => decide ((setupOf s k).scale = c)

/-- What the UAR does on a notice (R91, R93, R95): the conveyor command, then the settle test, then the grant test (log 40). -/
def uarNotice (n : Notice) (s : State) : State :=
  let s1 := if n.before = .unseen ∧ n.after = .live ∧ namedAsScale s n.channel then postPresentConveyor s else s
  let s2 :=
    match s1.uar.grant with
    | none   => s1
    | some g => if (setupOf s1 g.kiln).scale = n.channel then settleNotice g n s1 else s1
  if n.arrival && headScale s2 n.channel then grantTest s2 else s2

/-- The overrun deadline reached (R98). -/
def unloadOverrun (g : Grant) (s : State) : State :=
  postEvent .unloadOverrun (kilnContext g.kiln)
    (onUar (fun b => { b with grant := some { g with overrun := none } }) s)

/-! ### Rest due times (R100) -/

/-- A RESTING layer whose rest due time is reached. -/
def restReached (now : Time) (number : Nat) (l : Layer) : Bool :=
  decide (l.number = number ∧ l.state = .resting) && due l.restDue now

/-- A layer gone READY. -/
def readied (l : Layer) : Layer := { l with state := .ready, restDue := none }

/-- The layer of a number goes READY when its rest due time is reached, and the PRU is told (R100). -/
def layerRest (number : Nat) (s : State) : State :=
  if s.cfl.layers.any (restReached s.clock number) then
    let ls := s.cfl.layers.map (fun l => if restReached s.clock number l then readied l else l)
    decidePress (setLayers ls s)
  else s

/-! ### Floor clear (R102) -/

/-- A layer that FLOOR-CLEAR sweeps. -/
def swept (l : Layer) : Bool := decide (l.state ≠ .receiving)

/-- The grams of the lot shares of some layers. -/
def lotGrams (ls : List Layer) : Nat := ((ls.flatMap (·.shares)).filter (fun sh => sh.slot.isSome)).map (·.grams) |>.sum

/-- The grams of the UNASSIGNED shares of some layers. -/
def unassignedGrams (ls : List Layer) : Nat :=
  ((ls.flatMap (·.shares)).filter (fun sh => sh.slot.isNone)).map (·.grams) |>.sum

/-- One layer swept: the sweep updates of its lot shares with grams left, then its removal; a RECEIVING layer stays. -/
def sweepLayer (l : Layer) (s : State) : State :=
  let s' := l.shares.foldl (fun s sh => if 0 < sh.grams then updateSlot sh.slot (sweep sh.grams) s else s) s
  setLayers (s'.cfl.layers.filter (fun m => !(decide (m.number = l.number) && swept m))) s'

/-- The floor cleared, with the tests that follow the CFL's reports (R102). -/
def clearFloor (s : State) : State :=
  grantTest (decidePress ((s.cfl.layers.filter swept).foldl (fun s l => sweepLayer l s) s))

end Sys2Proof.Machine
end

