-- ==== Sys2Proof/Machine/Press.lean ====
section
/-! DEFINITION. Chapter 6: the press cycle, weighing and the bale close. -/

namespace Sys2Proof.Machine

/-! ### The press cycle (R106, R107) -/

/-- The press moved to a state, and the permit decided again (R121). -/
def movePress (st : PressState) (s : State) : State := decidePress (onPru (fun b => { b with state := st }) s)

/-- CHARGE-START (R106). -/
def takeChargeStart (s : State) : State :=
  if s.pru.state = .idle then movePress .charging (onPru (fun b => { b with chargeStart := some s.clock }) s) else s

/-- PRESS-CYCLE (R106). -/
def takePressCycle (s : State) : State := if s.pru.state = .charging then movePress .pressing s else s

/-- BALE-TIED (R109). -/
def takeBaleTied (s : State) : State :=
  if s.pru.state = .pressing then
    movePress .weighing (onPru (fun b => { b with
      tie := some s.clock, settle := some (after s.clock (1000 * s.mgu.config.settleLimit)) }) s)
  else s

/-- The press back at IDLE with no bale in progress (R107). -/
def idlePress (s : State) : State :=
  onPru (fun b => { b with state := .idle, chargeStart := none, tie := none, settle := none }) s

/-! ### The draw (R113, R114) -/

/-- The first and second draws of a bale of net mass `b`: of the head layer, and of the layer behind it (R113). -/
def draws (b : Nat) : List Layer → Nat × Nat
  | []      => (0, 0)
  | [l]     => if l.state = .ready then (min b l.remaining, 0) else (0, 0)
  | l :: m :: _ =>
    if l.state = .ready then
      if l.remaining < b ∧ m.state = .ready then (l.remaining, min (b - l.remaining) m.remaining)
      else (min b l.remaining, 0)
    else (0, 0)

/-- The parts of a draw over the shares of a layer. -/
def drawParts (d : Nat) (shares : List Share) : List Nat :=
  (split d (shares.map (·.grams))).getD (shares.map (fun _ => 0))

/-- A layer after a draw. -/
def drawnLayer (d : Nat) (l : Layer) : Layer :=
  { l with
    remaining := l.remaining - d
    shares := (l.shares.zip (drawParts d l.shares)).map (fun p => { p.1 with grams := p.1.grams - p.2 }) }

/-- A layer that a draw leaves on the floor: one that empties it removes it (R99). -/
def afterDraw (d : Nat) (l : Layer) : List Layer :=
  if 0 < d then if l.remaining - d = 0 then [] else [drawnLayer d l] else [l]

/-- The layer list after the two draws. -/
def drawLayers (d : Nat × Nat) : List Layer → List Layer
  | []          => []
  | [l]         => afterDraw d.1 l
  | l :: m :: r => afterDraw d.1 l ++ afterDraw d.2 m ++ r

/-- The parts that the two draws take, share by share, in the order of R114. -/
def drawnParts (d : Nat × Nat) : List Layer → List (Share × Nat)
  | []          => []
  | [l]         => l.shares.zip (drawParts d.1 l.shares)
  | l :: m :: _ => l.shares.zip (drawParts d.1 l.shares) ++ m.shares.zip (drawParts d.2 m.shares)

/-- A part added to the share of its lot, by slot and number, or joined behind the rest. A part of 0 keeps its lot's place
(log 38). -/
def addPart (sh : Share) (part : Nat) : List Share → List Share
  | []      => [{ sh with grams := part }]
  | x :: xs => if x.slot = sh.slot ∧ x.lotNumber = sh.lotNumber then { x with grams := x.grams + part } :: xs else x :: addPart sh part xs

/-- The lot shares of a bale from the parts drawn (R114). -/
def baleLotShares (parts : List (Share × Nat)) : List Share :=
  (parts.foldl (fun acc p => if p.1.slot.isSome then addPart p.1 p.2 acc else acc) []).filter (fun sh => decide (0 < sh.grams))

/-- The parts drawn from UNASSIGNED shares. -/
def unassignedParts (parts : List (Share × Nat)) : Nat :=
  ((parts.filter (fun p => p.1.slot.isNone)).map (·.2)).sum

/-! ### The bale record (R111, R115, R116) -/

/-- OFFWEIGHT (R111). -/
def offweight (b target : Nat) : Bool := decide (b * 100 < 40 * target ∨ 160 * target < b * 100)

/-- The moisture of the layer at a place of the list; 0 where there is none. -/
def moistureAt (ls : List Layer) (i : Nat) : Nat := (ls[i]?.map (·.moisture)).getD 0

/-- The layer numbers with a draw above 0, in draw order. -/
def drawnNumbers (d : Nat × Nat) (ls : List Layer) : List Nat :=
  ((ls.take 2).zip [d.1, d.2]).filterMap (fun p => if 0 < p.2 then some p.1.number else none)

/-- The record of the bale that closes now (R112 steps 1 to 4). -/
def closedBale (gross : Nat) (unsettled : Bool) (s : State) : BaleRecord :=
  let c := s.mgu.config
  let b := gross - c.baleTare
  let ls := s.cfl.layers
  let d := draws b ls
  let excess := b - d.1 - d.2
  let parts := drawnParts d ls
  let un := unassignedParts parts + excess
  { number := s.pru.nextBale
    gross := gross
    net := b
    moisture := baleMoisture d.1 (moistureAt ls 0) d.2 (moistureAt ls 1) excess c.reference
    drawn := drawnNumbers d ls
    shares := baleLotShares parts
    unassigned := if un = 0 then none else some un
    close := stampNow s
    flags := ⟨decide (b < c.baleTarget - c.baleTolerance), offweight b c.baleTarget, unsettled, decide (0 < excess)⟩ }

/-- A record appended to the bale log of 96 (R116). -/
def appendBale (b : BaleRecord) (log : List BaleRecord) : List BaleRecord :=
  (if 96 ≤ log.length then log.drop 1 else log) ++ [b]

/-! ### What a bale posts (R117 to R119) -/

/-- REFS-FULL of a slot's live record. -/
def refsFullAt (s : State) (slot : Fin 32) : Bool :=
  match lotAt s slot with
  | none   => false
  | some l => l.flags.refsFull

/-- The press permit decided again when a lot's REFS-FULL has changed (R121). -/
def onRefsFull (slot : Fin 32) (before s : State) : State :=
  if refsFullAt before slot = refsFullAt s slot then s else decidePress s

/-- One bale share update applied (R117), and the report of a changed REFS-FULL. -/
def postShare (b : BaleRecord) (slot : Fin 32) (grams : Nat) (s : State) : State :=
  onRefsFull slot s (updateLot slot (addBaleShare grams b.number b.moisture b.flags) s)

/-- The ITK's answer calls for a part-ticket request: 48 references and not COMPLETE (R118). -/
def wantsPart (s : State) (slot : Fin 32) (number : Nat) : Bool :=
  match lotAt s slot with
  | none   => false
  | some l => decide (l.number = number ∧ l.refs.length = 48 ∧ l.state ≠ .complete)

/-- The bale share updates in share order (R117), and the lots whose answers call for a part-ticket request (R118), in share order
too (log 46). -/
def postShares (b : BaleRecord) : List Share → State → State × List (Fin 32 × Nat)
  | [],        s => (s, [])
  | sh :: shs, s =>
    match sh.slot with
    | none      => postShares b shs s
    | some slot =>
      let s1 := postShare b slot sh.grams s
      let (s2, wants) := postShares b shs s1
      (s2, if wantsPart s1 slot sh.lotNumber then (slot, sh.lotNumber) :: wants else wants)

/-- The REFS-FULL update of a lot, passed over when its list holds fewer than 48 entries (R118). -/
def postRefsFull (slot : Fin 32) (s : State) : State :=
  onRefsFull slot s (updateLot slot (fun l => if l.refs.length = 48 then withFlags (fun f => { f with refsFull := true }) l else l) s)

/-- A part-ticket request made unless one is waiting for the lot (R118). -/
def requestPart (w : Fin 32 × Nat) (s : State) : State :=
  if w ∈ s.pru.waiting then s
  else
    let (s1, built) := partRequest w.1 w.2 s
    if built then s1
    else postRefsFull w.1 (onPru (fun b => { b with waiting := b.waiting ++ [w] }) s1)

/-- The occurrences of a bale close (R119). -/
def postBaleEvents (b : BaleRecord) (s : State) : State :=
  let s1 := postEvent .baleClosed ⟨none, none, some b.number, none⟩ s
  if b.flags.bookShort then postEvent .bookShort ⟨none, none, some b.number, none⟩ s1 else s1

/-- The floor after a bale's draw, the bale number taken, and the record in the bale log (R112 steps 2, 3 and 5). -/
def logBale (b : BaleRecord) (s : State) : State :=
  onPru (fun p => { p with nextBale := nextInSequence 65535 p.nextBale, log := appendBale b p.log })
    (setLayers (drawLayers (draws b.net s.cfl.layers) s.cfl.layers) s)

/-- Bale close (R112), with the UAR's grant test when the floor book has fallen. The part-ticket requests of step 9 come in share
order (log 46). -/
def closeBale (gross : Nat) (unsettled : Bool) (s : State) : State :=
  let b := closedBale gross unsettled s
  let d := draws b.net s.cfl.layers
  let (s1, wants) := postShares b b.shares (logBale b s)
  let s2 := idlePress (postBaleEvents b s1)
  let s3 := decidePress (wants.foldl (fun s w => requestPart w s) s2)
  if 0 < d.1 + d.2 then grantTest s3 else s3

/-! ### Weighing (R109, R110) and notices (R109, R121) -/

/-- The settle deadline reached in WEIGHING (R110). -/
def pressSettle (s : State) : State :=
  closeBale (if configLive s s.mgu.config.pressScale then (heldValue s s.mgu.config.pressScale).toNat else 0) true s

/-- A notice that may change the charge channel's part in the permit: an arrival, or a change of state. -/
def movesCharge (n : Notice) : Bool := n.arrival || decide (n.before ≠ n.after)

/-- What the PRU does on a notice. -/
def pruNotice (n : Notice) (s : State) : State :=
  if s.mgu.configValid then
    let s1 :=
      if n.channel = s.mgu.config.pressScale ∧ n.arrival = true ∧ n.settled = true ∧ s.pru.state = .weighing then
        closeBale n.value.toNat false s
      else s
    if n.channel = s.mgu.config.pressCharge ∧ movesCharge n = true then decidePress s1 else s1
  else s

end Sys2Proof.Machine
end

