-- ==== Sys2Proof/Machine/Channels.lean ====
section
/-! DEFINITION. Chapter 1: sample entries, arrivals, stale deadlines and restarts of channels, and the notices that the
consumers act on. -/

namespace Sys2Proof.Machine

/-! ### What each consumer does on a notice (section 1.4) -/

/-- A kiln whose scale is the channel and which that scale makes eligible or not (R46). -/
def scaleOfEmpty (s : State) (c : Nat) (k : Fin 4) : Bool :=
  (setupOf s k).enabled && decide ((s.kilns.get k).state = .empty ∧ (setupOf s k).scale = c)

/-- The notice takes the channel into or out of LIVE. -/
def changesLive (n : Notice) : Bool := decide (n.before = .live) != decide (n.after = .live)

/-- The notice may change an input of the feed permit (R38). -/
def movesFeed (s : State) (n : Notice) : Bool :=
  (s.mgu.configValid && decide (n.before ≠ n.after) &&
    decide (n.channel = s.mgu.config.beltLoad ∨ n.channel = s.mgu.config.beltSpeed)) ||
  (changesLive n && (List.finRange 4).any (scaleOfEmpty s n.channel))

/-- The ITK: the belt integration (R33), and the feed permit (R38). -/
def itkNotice (n : Notice) (s : State) : State :=
  let s1 :=
    if n.arrival && s.mgu.configValid && decide (n.channel = s.mgu.config.beltLoad) then beltArrival n.channel n.value n.time s
    else s
  if movesFeed s1 n then decideFeed s1 else s1

/-- The KFR: the selection test when a kiln becomes eligible (R47), the low-room close when one stops (R52). -/
def kfrNotice (n : Notice) (s : State) : State :=
  if changesLive n && (List.finRange 4).any (scaleOfEmpty s n.channel) then
    if n.after = .live then selectKiln s else lowRoomClose s
  else s

/-- A kiln controller: the holds of R77 and R78 on its plenum channel. -/
def kcNotice (k : Fin 4) (n : Notice) (s : State) : State :=
  if n.channel = (setupOf s k).plenum then
    if n.arrival then
      if (((setupOf s k).ceiling + s.mgu.config.overtempMargin : Nat) : Int) < n.value then holdKiln k overtempCause s else s
    else if n.before = .live then holdKiln k plenumCause s
    else s
  else s

/-- A notice acted on by one consumer. -/
def consume (n : Notice) (s : State) : Consumer → State
  | .itk  => itkNotice n s
  | .kfr  => kfrNotice n s
  | .kc k => kcNotice k n s
  | .uar  => uarNotice n s
  | .pru  => pruNotice n s

/-- The consumers of a notice. -/
def consumers : List Consumer := [.itk, .kfr, .kc 0, .kc 1, .kc 2, .kc 3, .uar, .pru]

/-- A notice issued to every consumer (R14); their order is open (log 4). -/
def deliver (n : Notice) (s : State) : State :=
  let (order, s') := inChosenOrder consumers s
  order.foldl (fun s c => consume n s c) s'

/-- Notices of several channels issued together: R14 gives no order among channels nor among consumers, so every notice
at every consumer is one act, and the acts' order is open (log 4). -/
def deliverAll (ns : List Notice) (s : State) : State :=
  let (order, s') := inChosenOrder (ns.flatMap (fun n => consumers.map (fun c => (n, c)))) s
  order.foldl (fun s p => consume p.1 s p.2) s'

/-! ### Arrivals (R7 to R12) -/

/-- One entry of a SAMPLE frame (11.1). -/
structure SampleEntry where
  channel : Nat
  raw     : Int
  fault   : Bool
  settled : Bool
  deriving DecidableEq, Repr

/-- A status byte's entry, read by its fault and settled bits alone (R191). -/
def sampleEntry (bs : List Byte) : SampleEntry where
  channel := field bs 0 1
  raw := fieldInt bs 1 3
  fault := (bs.getD 4 0).getLsbD 0
  settled := (bs.getD 4 0).getLsbD 1

/-- The entries of a payload of `n` entries. -/
def sampleEntriesOf : Nat → List Byte → List SampleEntry
  | 0,     _  => []
  | n + 1, bs => sampleEntry bs :: sampleEntriesOf n (bs.drop 5)

/-- The entries that the SMN reads: none of a frame whose count or length is wrong (R6). -/
def sampleEntries (payload : List Byte) : List SampleEntry :=
  let count := field payload 0 1
  if 1 ≤ count ∧ count ≤ 16 ∧ payload.length = 1 + 5 * count then sampleEntriesOf count (payload.drop 1) else []

/-- The valid channel that a sample entry matches (R2); a source channel above 15 matches none (R191). -/
def matching (s : State) (source channel : Nat) : Option (Fin 64) :=
  s.channels.lowest? (fun c => c.valid && decide (c.sourceNode = source ∧ c.sourceChannel = channel))

/-- The expected period P in milliseconds (R1). -/
def period (c : Channel) : Nat := 100 * 2 ^ c.exponent

/-- A channel after a good arrival at time `t` (R11). -/
def arrived (c : Channel) (e : SampleEntry) (t : Time) : Channel :=
  let v := scaled e.raw c.gain c.offset
  { c with
    held := clampInt c.low c.high v
    clamped := decide (v < c.low ∨ c.high < v)
    settled := e.settled
    lastArrival := some t
    state := .live
    staleDeadline := some (after t (3 * period c)) }

/-- A channel after a fault arrival at time `t` (R12). -/
def faulted (c : Channel) (t : Time) : Channel :=
  { c with lastArrival := some t, staleDeadline := none, state := .fault }

/-- The channel table replaced. -/
def setChannels (t : Tab Channel 64) (s : State) : State := { s with channels := t }

/-- A channel entry replaced. -/
def setChannel (i : Fin 64) (c : Channel) (s : State) : State := setChannels (s.channels.set i c) s

/-- A state notice: a change of state that is not a good arrival (R14). -/
def stateNotice (i : Nat) (before after : ChannelState) (now : Time) : Notice := ⟨i, false, 0, false, false, now, before, after⟩

/-- A good arrival (R11) and its arrival notice. -/
def goodArrival (i : Fin 64) (e : SampleEntry) (s : State) : State :=
  let c := s.channels.get i
  let c' := arrived c e s.clock
  deliver ⟨i.val, true, c'.held, c'.clamped, c'.settled, s.clock, c.state, .live⟩ (setChannel i c' s)

/-- A fault arrival (R12), with CHANNEL-FAULT and the state notice on entry to FAULT. -/
def faultArrival (i : Fin 64) (s : State) : State :=
  let c := s.channels.get i
  let s' := setChannel i (faulted c s.clock) s
  if c.state = .fault then s'
  else deliver (stateNotice i.val c.state .fault s.clock) (postEvent .channelFault (detailContext i.val) s')

/-- One entry of an accepted SAMPLE frame (R7): its notice is acted on before the next entry is taken (log 5). -/
def takeEntry (source : Nat) (s : State) (e : SampleEntry) : State :=
  match matching s source e.channel with
  | none   => s
  | some i => if e.fault then faultArrival i s else goodArrival i e s

/-- The SMN's reading of an accepted SAMPLE frame (R6, R7). -/
def readSample (f : Frame) (s : State) : State := (sampleEntries f.payload).foldl (takeEntry f.src.toNat) s

/-! ### Stale deadline (R13), restart (R18) -/

/-- A channel gone STALE. -/
def staled (c : Channel) : Channel := { c with state := .stale, staleDeadline := none }

/-- The stale deadline of a LIVE channel reached (R13). -/
def channelStale (i : Fin 64) (s : State) : State :=
  deliver (stateNotice i.val .live .stale s.clock)
    (postEvent .channelStale (detailContext i.val) (setChannel i (staled (s.channels.get i)) s))

/-- A valid channel after a ring restart (R18). -/
def restarted (c : Channel) : Channel := if c.valid then { c with state := .unseen, staleDeadline := none } else c

/-- The state notices of the channels at which two tables differ in leaving LIVE, STALE or FAULT for UNSEEN. -/
def leavingNotices (now : Time) (touched : Fin 64 → Bool) (s : State) : List Notice :=
  (List.finRange 64).filterMap (fun i =>
    if touched i && decide ((s.channels.get i).state ≠ .unseen) then
      some (stateNotice i.val (s.channels.get i).state .unseen now)
    else none)

/-- The SMN's ring restart (R18): every valid channel is UNSEEN before the first notice is acted on (log 27). -/
def restartChannels (s : State) : State :=
  deliverAll (leavingNotices s.clock (fun i => (s.channels.get i).valid) s) (setChannels (s.channels.map restarted) s)

end Sys2Proof.Machine
end

