-- ==== Sys2Proof/Machine/Link.lean ====
section
/-! DEFINITION. Chapter 9: receiving, the guard, the choice at a frame boundary and the insertions, the silence of port A
and the ring restart. -/

namespace Sys2Proof.Machine

/-! ### Receiving (R164, R165, R172) -/

/-- A frame received on port A, good or bad, ends a silence and starts the timing again (R172). -/
def heard (s : State) : State :=
  onRlu (fun b => { b with
    silence := false
    lastFrame := some s.clock
    silenceFrom := if s.mgu.configValid then some s.clock else b.silenceFrom }) s

/-- The frame's source is the device's own address (R165). -/
def fromOwn (s : State) (f : Frame) : Bool := strapOk s && decide (f.src = ownByte s)

/-- The frame is addressed to the device (R165, R166). -/
def toOwn (s : State) (f : Frame) : Bool := strapOk s && decide (f.dst = ownByte s)

/-- An accepted frame: removed when its source is the device itself, else handled by its kind (R165). -/
def accept (f : Frame) (handle : State → State) (s : State) : State :=
  let s1 := withCounts (fun c => { c with accepted := bump32 c.accepted }) (heard s)
  if fromOwn s1 f then withCounts (fun c => { c with ownRemoved := bump32 c.ownRemoved }) s1 else handle s1

/-- A bad frame is dropped (R164). -/
def dropBad (s : State) : State :=
  postEvent .crcError noContext (withCounts (fun c => { c with badDropped := bump32 c.badDropped }) (heard s))

/-! ### The guard (R174, R175, R191) -/

/-- The valid actuator table entry of a node and actuator number. -/
def guardEntry (s : State) (node number : Nat) : Option Actuator :=
  s.actuators.cells.find? (fun a => a.valid && decide (a.node = node ∧ a.number = number))

/-- A value under a permit with its slow value. -/
def permitted (p : Permit) (slow v : Nat) : Nat :=
  match p with
  | .hold => 0
  | .slow => min v slow
  | .go   => v

/-- The burner value a kiln lets pass. -/
def burnerValue (s : State) (kiln : Fin 4) (v : Nat) : Nat :=
  match (s.kilns.get kiln).state with
  | .drying _ => min v (s.kfr.setups.get kiln).ceiling
  | _         => 0

/-- Some kiln is UNLOADING. -/
def anyUnloading (s : State) : Bool := s.kilns.cells.any (fun k => decide (k.state = .unloading))

/-- The value of a matched command as its entry's function rewrites it (R175, R191). -/
def guarded (s : State) (a : Actuator) (v : Nat) : Nat :=
  match a.function with
  | .feeder         => permitted s.itk.permit s.mgu.config.feederSlow (min v 1000)
  | .pressCharge    => permitted s.pru.permit s.mgu.config.pressSlow (min v 1000)
  | .burner         => burnerValue s a.kiln v
  | .diverter       =>
    match s.kfr.diverter with
    | none   => v
    | some k => k.val
  | .unloadConveyor => if anyUnloading s then min v 1000 else 0
  | .fan            => v
  | .other          => v

/-- The index of a function's count in the link view. -/
def functionIndex : ActuatorFunction → Fin 7
  | .feeder => 0 | .burner => 1 | .fan => 2 | .diverter => 3 | .pressCharge => 4 | .unloadConveyor => 5 | .other => 6

/-- The CGD's count of commands whose value it changed (R175). -/
def countRewrite (f : ActuatorFunction) (s : State) : State :=
  withCounts (fun c => { c with rewritten := c.rewritten.modify (functionIndex f) bump32 }) s

/-- The value that the guard gives a command, and the state with a changed value counted (R174). -/
def guardValue (node number v : Nat) (s : State) : Nat × State :=
  if started s then
    match guardEntry s node number with
    | none   => (v, s)
    | some a => if guarded s a v = v then (v, s) else (guarded s a v, countRewrite a.function s)
  else (v, s)

/-- A COMMAND frame with a value; unchanged where the value is that received. -/
def withValue (f : Frame) (v : Nat) : Frame :=
  if v = field f.payload 1 2 then f else { f with payload := f.payload.take 1 ++ beBytes 2 v }

/-- A passing COMMAND frame (R174); in started mode one whose length is not 3 is dropped (R191). -/
def passCommand (f : Frame) (s : State) : State :=
  if started s then
    if f.payload.length = 3 then
      let (v, s1) := guardValue f.dst.toNat (field f.payload 0 1) (field f.payload 1 2) s
      forward (withValue f v) s1
    else withCounts (fun c => { c with badDropped := bump32 c.badDropped }) s
  else forward f s

/-! ### Insertion (R169) -/

/-- A frame begins to leave on port B. -/
def send (f : Frame) (s : State) : State := onRlu (fun b => { b with portB := some f }) s

/-- The oldest command inserted, with the value the guard gives it. -/
def insertCommand (c : Command) (rest : List Command) (s : State) : State :=
  let (v, s1) := guardValue c.node c.number c.value (onRlu (fun b => { b with commands := rest }) s)
  send (commandFrameOf (ownByte s1) { c with value := v })
    (withCounts (fun n => { n with commandsInserted := bump32 n.commandsInserted }) s1)

/-- The oldest reply inserted. -/
def insertReply (r : Reply) (rest : List Reply) (s : State) : State :=
  send (replyFrameOf (ownByte s) r)
    (withCounts (fun n => { n with repliesInserted := bump32 n.repliesInserted })
      (onRlu (fun b => { b with replies := rest }) s))

/-- The oldest report inserted. -/
def insertReport (r : Report) (rest : List Report) (s : State) : State :=
  send (reportFrameOf (ownByte s) r)
    (withCounts (fun n => { n with reportsInserted := bump32 n.reportsInserted })
      (onRlu (fun b => { b with reports := rest }) s))

/-- The counter that the free values of logs 7 and 44 are applied to, advanced. -/
def useFreeValue (s : State) : State := { s with freeCount := s.freeCount + 1 }

/-- The segment in the ticket slot inserted; its destination, 1 to 127, is the free value of log 7. -/
def insertSegment (seg : Segment) (s : State) : State :=
  segmentInserted seg.serial (send (ticketFrameOf (ownByte s) (BitVec.ofNat 8 (1 + (Config.ticketDestination s.freeCount).val)) seg)
    (withCounts (fun n => { n with ticketsInserted := bump32 n.ticketsInserted }) (withdraw (useFreeValue s))))

/-- The insertion arbiter (R169): the first queue that is not empty, in its fixed order. -/
def insertFrame (s : State) : State :=
  match s.rlu.commands, s.rlu.replies, s.rlu.reports, s.rlu.slot with
  | c :: rest, _,         _,         _        => insertCommand c rest s
  | [],        r :: rest, _,         _        => insertReply r rest s
  | [],        [],        r :: rest, _        => insertReport r rest s
  | [],        [],        [],        some seg => insertSegment seg s
  | [],        [],        [],        none     => s

/-! ### The choice at a frame boundary (R168) -/

/-- An insert queue holds something. -/
def inserting (s : State) : Bool :=
  !s.rlu.commands.isEmpty || !s.rlu.replies.isEmpty || !s.rlu.reports.isEmpty || s.rlu.slot.isSome

/-- The starvation guard F in force: 64 until the first CONFIG write. -/
def starvationLimit (s : State) : Nat := if s.mgu.configValid then s.mgu.config.starvationGuard else 64

/-- The starvation count replaced. -/
def setStarvation (n : Nat) (s : State) : State := onRlu (fun b => { b with starvation := n }) s

/-- The head of the pass buffer sent, with the starvation count after it. -/
def sendThrough (f : Frame) (rest : List Frame) (count : Nat) (s : State) : State :=
  send f (setStarvation count (onRlu (fun b => { b with passBuffer := rest }) s))

/-- The choice of the next frame to send, made with port B idle (R168). -/
def choose (s : State) : State :=
  match s.rlu.passBuffer with
  | []        => if inserting s then insertFrame (setStarvation 0 s) else s
  | f :: rest =>
    if inserting s then
      if s.rlu.starvation < starvationLimit s then sendThrough f rest (s.rlu.starvation + 1) s
      else insertFrame (setStarvation 0 s)
    else sendThrough f rest 0 s

/-- An idle port B starts the choice (R168); made when a command has had its whole effect (log 9). -/
def startPortB (s : State) : State := if s.rlu.portB.isNone then choose s else s

/-! ### Silence of port A (R172) -/

/-- Port A has been silent past the timeout. Log 20: the time must pass the timeout, so strictly. -/
def silencePassed (s : State) : Bool :=
  s.mgu.configValid && !s.rlu.silence &&
    match s.rlu.silenceFrom with
    | none   => false
    | some t => decide (s.mgu.config.idleTimeout < elapsed t s.clock)

/-- The silence indicator set, and RING-IDLE posted, when the silence has passed the timeout (R172). -/
def silenceTest (s : State) : State :=
  if silencePassed s then postEvent .ringIdle noContext (onRlu (fun b => { b with silence := true }) s) else s

/-! ### Ring restart (R176) -/

/-- The blocks that make a ring restart of their own. -/
inductive RestartBlock where
  | tku | smn | rct
  deriving DecidableEq, Repr

/-- The TKU's ring restart (R149). -/
def restartTickets (s : State) : State :=
  exhaustedTest (onTku (fun b => { b with queue := b.queue.map rewound, credits := 0, exhausted := false }) s)

/-- The RCT's ring restart (R88). -/
def restartRecipes (s : State) : State := onRct (fun b => { b with staging := none }) s

/-- One block's ring restart. -/
def restartBlock (s : State) : RestartBlock → State
  | .tku => restartTickets s
  | .smn => restartChannels s
  | .rct => restartRecipes s

/-- The pass buffer and the insert queues emptied (R176 steps 1 to 3). -/
def emptyLink (s : State) : State :=
  onRlu (fun b => { b with
    passBuffer := [], commands := [], replies := [], reports := [], slot := none, starvation := 0 }) s

/-- The ring restart that an accepted RESTART frame brings (R176); the order of the blocks' restarts is open (log 14). -/
def ringRestart (f : Frame) (s : State) : State :=
  let s1 := withCounts (fun c => { c with restartsTaken := bump32 c.restartsTaken }) s
  let (order, s2) := inChosenOrder [RestartBlock.tku, .smn, .rct] (forward f (emptyLink s1))
  order.foldl restartBlock s2

end Sys2Proof.Machine
end

