-- ==== Sys2Proof/Machine/Receive.lean ====
section
/-! DEFINITION. Which command a received frame is: the frame kinds, mark codes and request codes of chapter 11, and the
command that stands for received bytes. -/

namespace Sys2Proof.Machine

/-! ### The frame of each row -/

/-- The frame's kind code (11.1). -/
def kindIs (f : Frame) (kind : Nat) : Bool := decide (f.kind.toNat = kind)

/-- A MARK frame of length 2 with a mark code (11.1, R191). -/
def marks (f : Frame) (code : Nat) : Bool := kindIs f 2 && decide (f.payload.length = 2 ∧ field f.payload 0 1 = code)

/-- A MARK frame that names none of the six marks (R191). -/
def marksNothing (f : Frame) : Bool :=
  kindIs f 2 && !decide (f.payload.length = 2 ∧ 1 ≤ field f.payload 0 1 ∧ field f.payload 0 1 ≤ 6)

/-- A frame kind that is forwarded and read by no block (R166). -/
def passesThrough (f : Frame) : Bool := !(kindIs f 1 || kindIs f 2 || kindIs f 3)

/-- A REQUEST with a request code. -/
def asks (f : Frame) (code : Nat) : Bool :=
  kindIs f 4 && decide (3 ≤ f.payload.length ∧ field f.payload 2 1 = code)

/-- A REQUEST with a request code and a table or view code. -/
def asksOf (f : Frame) (code sub : Nat) : Bool :=
  asks f code && decide (4 ≤ f.payload.length ∧ field f.payload 3 1 = sub)

/-- TICKET-CREDIT with the mode byte SET. -/
def asksCreditSet (f : Frame) : Bool := asks f 23 && decide (4 ≤ f.payload.length ∧ field f.payload 3 1 = 1)

/-- Any other TICKET-CREDIT: the mode byte names ADD or no mode, or is absent (log 28). -/
def asksCreditAdd (f : Frame) : Bool := asks f 23 && !asksCreditSet f

/-- The payload names a request of section 10.1, with a table or view of R182 and R187 where it needs one. -/
def namesRequest (p : List Byte) : Bool :=
  let code := field p 2 1
  let sub := field p 3 1
  decide (3 ≤ p.length) &&
    (decide (4 ≤ code ∧ code ≤ 27) ||
     (decide (4 ≤ p.length) &&
      (decide ((code = 1 ∨ code = 2) ∧ 1 ≤ sub ∧ sub ≤ 7) || decide (code = 3 ∧ 1 ≤ sub ∧ sub ≤ 13))))

/-- A REQUEST that names no request. -/
def asksNothing (f : Frame) : Bool := kindIs f 4 && !namesRequest f.payload

/-! ### The command of received bytes -/

/-- The command of an accepted MARK frame. -/
def markCommand (f : Frame) : Instr :=
  if f.payload.length = 2 then
    match field f.payload 0 1 with
    | 1 => .hook f
    | 2 => .hookShort f
    | 3 => .chargeStart f
    | 4 => .pressCycle f
    | 5 => .baleTied f
    | 6 => .unloadDone f
    | _ => .malformedMarkFrame f
  else .malformedMarkFrame f

/-- The command of a TABLE-READ, by its table code (11.2). -/
def tableReadCommand (f : Frame) : Nat → Instr
  | 1 => .tableReadChannel f
  | 2 => .tableReadActuator f
  | 3 => .tableReadNodeClass f
  | 4 => .tableReadKilnSetup f
  | 5 => .tableReadConfig f
  | 6 => .tableReadRecipe f
  | 7 => .tableReadBaleLog f
  | _ => .requestUndefined f

/-- The command of a TABLE-WRITE, by its table code. -/
def tableWriteCommand (f : Frame) : Nat → Instr
  | 1 => .tableWriteChannel f
  | 2 => .tableWriteActuator f
  | 3 => .tableWriteNodeClass f
  | 4 => .tableWriteKilnSetup f
  | 5 => .tableWriteConfig f
  | 6 => .tableWriteRecipe f
  | 7 => .tableWriteBaleLog f
  | _ => .requestUndefined f

/-- The command of a STATUS-READ, by its view code (11.2, R187). -/
def statusReadCommand (f : Frame) : Nat → Instr
  | 1  => .statusReadDevice f
  | 2  => .statusReadChannels f
  | 3  => .statusReadEvents f
  | 4  => .statusReadIntake f
  | 5  => .statusReadLot f
  | 6  => .statusReadFill f
  | 7  => .statusReadKilns f
  | 8  => .statusReadFloor f
  | 9  => .statusReadPress f
  | 10 => .statusReadBale f
  | 11 => .statusReadTickets f
  | 12 => .statusReadTicket f
  | 13 => .statusReadLink f
  | _  => .requestUndefined f

/-- The command of a REQUEST, by its request code (11.2). -/
def requestCommand (f : Frame) : Nat → Instr
  | 1  => tableReadCommand f (field f.payload 3 1)
  | 2  => tableWriteCommand f (field f.payload 3 1)
  | 3  => statusReadCommand f (field f.payload 3 1)
  | 4  => .recipeBegin f
  | 5  => .recipeStage f
  | 6  => .recipeEnd f
  | 7  => .timeSet f
  | 8  => .eventEnable f
  | 9  => .eventClear f
  | 10 => .start f
  | 11 => .lotOpen f
  | 12 => .lotCancel f
  | 13 => .lotEnd f
  | 14 => .kilnStart f
  | 15 => .kilnHold f
  | 16 => .kilnResume f
  | 17 => .kilnForceEnd f
  | 18 => .kilnFillClose f
  | 19 => .kilnClear f
  | 20 => .kilnRecipe f
  | 21 => .floorClear f
  | 22 => .pressAbort f
  | 23 => if asksCreditSet f then .ticketCreditSet f else .ticketCreditAdd f
  | 24 => .ticketStop f
  | 25 => .ticketRun f
  | 26 => .ticketRewind f
  | 27 => .ticketRelease f
  | _  => .requestUndefined f

/-- The command of an accepted frame (R165, R166). -/
def frameCommand (s : State) (f : Frame) : Instr :=
  if fromOwn s f then .ownFrameRemoved f
  else
    match f.kind.toNat with
    | 1 => .sampleFrame f
    | 2 => markCommand f
    | 3 => .commandFrame f
    | 4 => if toOwn s f then requestCommand f (field f.payload 2 1) else .passThroughFrame f
    | 8 => .restart f
    | _ => .passThroughFrame f

/-- The command of the bytes received on port A between two frame boundaries (R164). -/
def receivedCommand (s : State) (bs : List Byte) : Instr :=
  if frameBad bs then .badFrame bs else frameCommand s (frameOf bs)

end Sys2Proof.Machine
end

