-- ==== Sys2Proof/Machine/Operands.lean ====
section
/-! DEFINITION. The operands of a command: the fields of a REQUEST, the class of its source, and the handling of R179. -/

namespace Sys2Proof.Machine

/-! ### Fields of a REQUEST (11.1, 11.2) -/

/-- The arguments of a request, after its tag and code. -/
def args (f : Frame) : List Byte := f.payload.drop 3

/-- The argument of `n` bytes at an offset of the arguments. -/
def arg (f : Frame) (off n : Nat) : Nat := field (args f) off n

/-- The arguments have the length that the request needs. -/
def argsLength (f : Frame) (n : Nat) : Bool := decide ((args f).length = n)

/-- A kiln index argument; absent above 3. -/
def kilnOf (n : Nat) : Option (Fin 4) := if h : n < 4 then some ⟨n, h⟩ else none

/-! ### Answers (5.4, 11.2) -/

/-- An answer with a status and no data. -/
def refusal (st : Status) : Answer := ⟨st, .bytes []⟩

/-- DONE with data. -/
def done (bs : List Byte) : Answer := ⟨.done, .bytes bs⟩

/-- DONE, or DONE-CLAMPED when a field was clamped. -/
def doneClamped (clamped : Bool) : Answer := ⟨if clamped then .doneClamped else .done, .bytes []⟩

/-! ### Authority (R180) -/

/-- A node-class entry matches a source address. -/
def classMatches (source : Nat) (e : NodeClassEntry) : Bool :=
  e.valid && decide (Nat.land source e.mask = Nat.land e.address e.mask)

/-- The class of a source address. -/
def classOf (s : State) (source : Nat) : NodeClass :=
  match s.mgu.nodeClasses.cells.find? (classMatches source) with
  | none   => .viewer
  | some e => if e.weighmaster then .weighmaster else .operator

/-- The OPERATOR or the WEIGHMASTER class. -/
def isOperator (c : NodeClass) : Bool := decide (c ≠ .viewer)

/-- The WEIGHMASTER class. -/
def isWeighmaster (c : NodeClass) : Bool := decide (c = .weighmaster)

/-! ### The handling of a request (R179) -/

/-- What the checks of R179 need of a request, and the owner that answers it. -/
structure Request where
  /-- The payload has the length its arguments require, and its window count is not 0. -/
  form  : Bool
  /-- The classes that may make the request. -/
  may   : State → NodeClass → Bool
  /-- A job request, not served before START. -/
  job   : Bool
  /-- The owner's own checks and acts. -/
  owner : State → State × Answer

/-- The answer of a request by the checks of R179 in their order. -/
def answer (r : Request) (source : Nat) (s : State) : State × Answer :=
  if !r.form then (s, refusal .malformed)
  else if !r.may s (classOf s source) then (s, refusal .notPermitted)
  else if r.job && !started s then (s, refusal .notStarted)
  else r.owner s

/-- A request with a source no node has, or too short for a tag, is discarded (R179 step 1). -/
def discarded (f : Frame) : Bool := decide (f.src.toNat = 0 ∨ 126 < f.src.toNat ∨ f.payload.length < 3)

/-- A request of the device answered, and its reply posted (R179). -/
def serve (f : Frame) (r : Request) (s : State) : State :=
  if discarded f then s
  else
    let (s', a) := answer r f.src.toNat s
    postReply ⟨f.src.toNat, f.payload.take 2, a⟩ s'

/-- An accepted REQUEST: consumed and served when addressed to the device, else forwarded (R166). -/
def handleRequest (f : Frame) (r : Request) (s : State) : State :=
  if toOwn s f then serve f r (withCounts (fun c => { c with requestsConsumed := bump32 c.requestsConsumed }) s)
  else forward f s

/-- The effect of an accepted frame that is of its row: handled, then the choice of an idle port B. A frame that is not of
the row that names it has no effect (log 12). -/
def takeFrame (ofRow : Bool) (f : Frame) (handle : State → State) (s : State) : State :=
  if ofRow then startPortB (accept f handle s) else s

/-- The effect of an accepted REQUEST frame of its row. -/
def takeRequest (ofRow : Bool) (f : Frame) (r : Request) (s : State) : State := takeFrame ofRow f (handleRequest f r) s

/-- A REQUEST frame: tag, code and arguments. -/
def requestFrame (dst src : Byte) (tag : List Byte) (code : Byte) (arguments : List Byte) : Frame :=
  ⟨dst, src, 4, tag ++ code :: arguments⟩

/-! ### Requests by the class they need (10.1) -/

/-- A request of any class, served in either mode. -/
def readRequest (form : Bool) (owner : State → State × Answer) : Request := ⟨form, fun _ _ => true, false, owner⟩

/-- A request of the OPERATOR class, served in either mode. -/
def setupRequest (form : Bool) (owner : State → State × Answer) : Request := ⟨form, fun _ c => isOperator c, false, owner⟩

/-- A job request of the OPERATOR class. -/
def jobRequest (form : Bool) (owner : State → State × Answer) : Request := ⟨form, fun _ c => isOperator c, true, owner⟩

/-- A job request of the WEIGHMASTER class. -/
def weighmasterRequest (form : Bool) (owner : State → State × Answer) : Request :=
  ⟨form, fun _ c => isWeighmaster c, true, owner⟩

end Sys2Proof.Machine
end

