-- ==== Sys2Proof/Machine/Deadlines.lean ====
section
/-! DEFINITION. The rows of deadlines on the station clock, and the list of those that are due. A deadline row acts only when
its deadline is present and reached; taken at another moment it has no effect (log 2). -/

namespace Sys2Proof.Machine

/-- A deadline's effect where it is due, then the choice of an idle port B. -/
def atDeadline (isDue : Bool) (act : State → State) (s : State) : State := if isDue then startPortB (act s) else s

/-! ### When each is due -/

def staleDue (s : State) (i : Fin 64) : Bool :=
  decide ((s.channels.get i).state = .live) && due (s.channels.get i).staleDeadline s.clock

def transitHeadDue (s : State) : Bool :=
  match s.itk.transit with
  | []     => false
  | e :: _ => reached e.due s.clock

def evaluationDue (s : State) (k : Fin 4) : Bool := due (s.kilns.get k).evalDeadline s.clock

def overdryDue (s : State) (k : Fin 4) : Bool :=
  decide ((s.kilns.get k).state = .endpoint) && due (s.kilns.get k).overdry s.clock

def settleDue (s : State) : Bool :=
  match s.uar.grant with
  | none   => false
  | some g => due g.settle s.clock

def overrunDue (s : State) : Bool :=
  match s.uar.grant with
  | none   => false
  | some g => due g.overrun s.clock

def restDueOf (s : State) (number : Nat) : Bool := s.cfl.layers.any (restReached s.clock number)

def pressDue (s : State) : Bool := decide (s.pru.state = .weighing) && due s.pru.settle s.clock

def secondDue (s : State) : Bool := reached s.mgu.nextSecond s.clock

/-! ### What each does -/

/-- The head transit entry taken (R31). -/
def takeTransit (s : State) : State :=
  match s.itk.transit with
  | []        => s
  | e :: rest => transitSwitch e rest s

/-- The overdry deadline of a kiln in ENDPOINT (R76). -/
def overdryReached (k : Fin 4) (s : State) : State :=
  postEvent .overdry (kilnContext k) (modifyKiln k (fun kl => { kl with overdry := none }) s)

/-- An act on the grant record, where there is one. -/
def withGrant (act : Grant → State → State) (s : State) : State :=
  match s.uar.grant with
  | none   => s
  | some g => act g s

/-- One second of the time of day (R184). -/
def nextSecondOfDay (s : State) : State :=
  onMgu (fun b => { b with timeOfDay := b.timeOfDay + 1, nextSecond := after b.nextSecond 1000 }) s

/-! ### The rows -/

/-- CHANNEL_STALE_DEADLINE (R13). -/
def execChannelStaleDeadline (c : Fin 64) (s : State) : Host.Outcome State Fault Refusal :=
  .next (atDeadline (staleDue s c) (channelStale c) s)

/-- TRANSIT_ENTRY_DUE (R31). -/
def execTransitEntryDue (s : State) : Host.Outcome State Fault Refusal :=
  .next (atDeadline (transitHeadDue s) takeTransit s)

/-- EVALUATION_EXPIRY (R70). -/
def execEvaluationExpiry (k : Fin 4) (s : State) : Host.Outcome State Fault Refusal :=
  .next (atDeadline (evaluationDue s k) (evaluate k) s)

/-- OVERDRY_DEADLINE (R76). -/
def execOverdryDeadline (k : Fin 4) (s : State) : Host.Outcome State Fault Refusal :=
  .next (atDeadline (overdryDue s k) (overdryReached k) s)

/-- UNLOAD_SETTLE_DEADLINE (R95). -/
def execUnloadSettleDeadline (s : State) : Host.Outcome State Fault Refusal :=
  .next (atDeadline (settleDue s) (withGrant completeUnload) s)

/-- UNLOAD_OVERRUN_DEADLINE (R98). -/
def execUnloadOverrunDeadline (s : State) : Host.Outcome State Fault Refusal :=
  .next (atDeadline (overrunDue s) (withGrant unloadOverrun) s)

/-- LAYER_REST_DUE (R100). -/
def execLayerRestDue (layer : Nat) (s : State) : Host.Outcome State Fault Refusal :=
  .next (atDeadline (restDueOf s layer) (layerRest layer) s)

/-- PRESS_SETTLE_DEADLINE (R110). -/
def execPressSettleDeadline (s : State) : Host.Outcome State Fault Refusal :=
  .next (atDeadline (pressDue s) pressSettle s)

/-- RING_IDLE_TIMEOUT (R172). -/
def execRingIdleTimeout (s : State) : Host.Outcome State Fault Refusal :=
  .next (atDeadline (silencePassed s) silenceTest s)

/-- TIME_OF_DAY_SECOND (R184). -/
def execTimeOfDaySecond (s : State) : Host.Outcome State Fault Refusal :=
  .next (atDeadline (secondDue s) nextSecondOfDay s)

/-! ### The deadlines that are due -/

/-- The deadline commands that are due now. -/
def dueCommands (s : State) : List Instr :=
  ((List.finRange 64).filter (staleDue s)).map .channelStaleDeadline
    ++ (if transitHeadDue s then [.transitEntryDue] else [])
    ++ ((List.finRange 4).filter (evaluationDue s)).map .evaluationExpiry
    ++ ((List.finRange 4).filter (overdryDue s)).map .overdryDeadline
    ++ (if settleDue s then [.unloadSettleDeadline] else [])
    ++ (if overrunDue s then [.unloadOverrunDeadline] else [])
    ++ (s.cfl.layers.filter (fun l => restReached s.clock l.number l)).map (fun l => .layerRestDue l.number)
    ++ (if pressDue s then [.pressSettleDeadline] else [])
    ++ (if silencePassed s then [.ringIdleTimeout] else [])
    ++ (if secondDue s then [.timeOfDaySecond] else [])

/-- What the block does with no command waiting (log 1): one deadline that is due is put into the queue, which of several
being open (log 4); with none due the station clock advances by 1 ms. -/
def idle (s : State) : State :=
  match dueCommands s with
  | []      => { s with clock := s.clock + 1 }
  | d :: ds =>
    let (n, s') := takeChoice s
    { s' with pending := [(d :: ds).getD (n % (d :: ds).length) d] }

end Sys2Proof.Machine
end

