-- ==== Sys2Proof/Machine/Frames.lean ====
section
/-! DEFINITION. The rows of ring traffic: power-on, received frames that are no requests, and the frame boundary. -/

namespace Sys2Proof.Machine

/-! ### Marks (sections 2.4, 5.3, 6.1) -/

/-- A mark taken in started mode from a node of the CONFIG record; an invalid record names no node (R183). -/
def fromNode (s : State) (f : Frame) (node : Nat) : Bool :=
  started s && s.mgu.configValid && decide (f.src.toNat = node)

/-- A hook mark with no hook lot (R27). -/
def orphanHook (s : State) : State := postEvent .orphanHook (lotContext none) s

/-- HOOK (R26). -/
def takeHook (s : State) : State :=
  match s.itk.hookLot with
  | none      => orphanHook s
  | some slot => if targetReached (countHook slot s) slot then endHooking slot (countHook slot s) else countHook slot s

/-- HOOK-SHORT (R27). -/
def takeHookShort (s : State) : State :=
  match s.itk.hookLot with
  | none      => orphanHook s
  | some slot => endHooking slot (countHook slot s)

/-- UNLOAD-DONE with its argument (R94). -/
def takeUnloadDone (kiln : Nat) (s : State) : State :=
  match s.uar.grant with
  | none   => s
  | some g => if g.kiln.val = kiln then completeUnload g s else s

/-- A mark handed to its reader when it is of the reader's node, then forwarded (R166). -/
def handleMark (f : Frame) (node : StationConfig → Nat) (act : State → State) (s : State) : State :=
  forward f (if fromNode s f (node s.mgu.config) then act s else s)

/-- A RESTART frame that brings a ring restart (R166, R176): broadcast, or to the device's own address. Log 11: with a strap
outside the node range it is handled as one addressed elsewhere. -/
def bringsRestart (s : State) (f : Frame) : Bool := strapOk s && (decide (f.dst = 127) || toOwn s f)

/-- A frame that passes through (R166): not one of a kind read here, nor a REQUEST or RESTART for the device. -/
def onlyPasses (s : State) (f : Frame) : Bool :=
  passesThrough f && !(kindIs f 4 && toOwn s f) && !(kindIs f 8 && bringsRestart s f)

/-! ### The rows -/

/-- POWER_ON (R17, R42, R57, R87, R104, R124, R148, R178, R189): every block's power-on state, the straps sampled (R165).
The queue of commands and the model's own fields stay. -/
def execPowerOn (straps : BitVec 7) (s : State) : Host.Outcome State Fault Refusal :=
  .next { State.powerOn straps with pending := s.pending, sched := s.sched, freeCount := s.freeCount }

/-- BAD_FRAME (R164): no effect for bytes that make a good frame (log 12). -/
def execBadFrame (wire : List Byte) (s : State) : Host.Outcome State Fault Refusal :=
  .next (if frameBad wire then startPortB (dropBad s) else s)

/-- OWN_FRAME_REMOVED (R165). -/
def execOwnFrameRemoved (f : Frame) (s : State) : Host.Outcome State Fault Refusal :=
  .next (takeFrame (fromOwn s f) f id s)

/-- SAMPLE_FRAME (R6, R7): read by the SMN and forwarded. Every accepted frame is read (R6), also one that is then dropped for
want of pass buffer room (R166, R167); what R6 says of a frame lost for want of room is read of a frame lost before it is
accepted here (log 36). -/
def execSampleFrame (f : Frame) (s : State) : Host.Outcome State Fault Refusal :=
  .next (takeFrame (kindIs f 1) f (fun s => forward f (readSample f s)) s)

/-- HOOK (R26). -/
def execHook (f : Frame) (s : State) : Host.Outcome State Fault Refusal :=
  .next (takeFrame (marks f 1) f (handleMark f (·.hookNode) takeHook) s)

/-- HOOK_SHORT (R27). -/
def execHookShort (f : Frame) (s : State) : Host.Outcome State Fault Refusal :=
  .next (takeFrame (marks f 2) f (handleMark f (·.hookNode) takeHookShort) s)

/-- CHARGE_START (R106). -/
def execChargeStart (f : Frame) (s : State) : Host.Outcome State Fault Refusal :=
  .next (takeFrame (marks f 3) f (handleMark f (·.pressNode) takeChargeStart) s)

/-- PRESS_CYCLE (R106). -/
def execPressCycle (f : Frame) (s : State) : Host.Outcome State Fault Refusal :=
  .next (takeFrame (marks f 4) f (handleMark f (·.pressNode) takePressCycle) s)

/-- BALE_TIED (R109). -/
def execBaleTied (f : Frame) (s : State) : Host.Outcome State Fault Refusal :=
  .next (takeFrame (marks f 5) f (handleMark f (·.pressNode) takeBaleTied) s)

/-- UNLOAD_DONE (R94). -/
def execUnloadDone (f : Frame) (s : State) : Host.Outcome State Fault Refusal :=
  .next (takeFrame (marks f 6) f (handleMark f (·.unloadNode) (takeUnloadDone (field f.payload 1 1))) s)

/-- COMMAND_FRAME (R174). -/
def execCommandFrame (f : Frame) (s : State) : Host.Outcome State Fault Refusal :=
  .next (takeFrame (kindIs f 3) f (passCommand f) s)

/-- RESTART (R176); a RESTART addressed elsewhere is forwarded (R166). -/
def execRestart (f : Frame) (s : State) : Host.Outcome State Fault Refusal :=
  .next (takeFrame (kindIs f 8) f (fun s => if bringsRestart s f then ringRestart f s else forward f s) s)

/-- PASS_THROUGH_FRAME (R166). -/
def execPassThroughFrame (f : Frame) (s : State) : Host.Outcome State Fault Refusal :=
  .next (takeFrame (onlyPasses s f) f (forward f) s)

/-- MALFORMED_MARK_FRAME (R191). -/
def execMalformedMarkFrame (f : Frame) (s : State) : Host.Outcome State Fault Refusal :=
  .next (takeFrame (marksNothing f) f (forward f) s)

/-- FRAME_BOUNDARY (R168): the frame on port B has been sent in full, and the next is chosen. -/
def execFrameBoundary (s : State) : Host.Outcome State Fault Refusal :=
  .next (choose (onRlu (fun b => { b with portB := none }) s))

/-- REQUEST_UNDEFINED (R179): a request whose code, table or view names none is MALFORMED. -/
def execRequestUndefined (f : Frame) (s : State) : Host.Outcome State Fault Refusal :=
  .next (takeRequest (asksNothing f) f (readRequest false (fun s => (s, refusal .malformed))) s)

end Sys2Proof.Machine
end

