-- ==== Sys2Proof/Machine/Views.lean ====
section
/-! DEFINITION. Section 10.7: STATUS-READ and the content of the thirteen views. -/

namespace Sys2Proof.Machine

/-! ### Content of the views (R187) -/

/-- The device view, with the class of the requester. -/
def deviceView (source : Nat) (s : State) : DeviceView where
  mode := s.mgu.mode
  configValid := s.mgu.configValid
  time := s.mgu.timeOfDay
  timeValid := s.mgu.timeValid
  reportDest := s.mgu.reportDest
  requester := classOf s source
  address := ownAddress s

/-- The channels that the CONFIG record names; an invalid record names none (R183). -/
def configUses (s : State) : List (Nat × ChannelUse) :=
  let c := s.mgu.config
  if s.mgu.configValid then
    [(c.beltLoad, .beltLoad), (c.beltSpeed, .beltSpeed), (c.pressScale, .pressScale), (c.pressCharge, .pressCharge)]
  else []

/-- The channels that a kiln setup entry names (log 22). -/
def setupUses (s : State) (k : Fin 4) : List (Nat × ChannelUse) :=
  let e := setupOf s k
  [(e.scale, .kilnScale k), (e.plenum, .kilnPlenum k), (e.exhaust, .kilnExhaust k)]

/-- The channels view: a row for each naming of a channel, those of CONFIG first, then kiln by kiln (R187, log 42). -/
def channelsRows (s : State) : List ChannelsRow :=
  (configUses s ++ (List.finRange 4).flatMap (setupUses s)).map (fun u =>
    ⟨u.1, u.2, (viewOf s u.1).state, (viewOf s u.1).age⟩)

/-- A slot with its live record's lot number. -/
def slotNumber (s : State) (slot : Option (Fin 32)) : Option (Fin 32 × Nat) :=
  match slot with
  | none   => none
  | some i => (lotAt s i).map (fun l => (i, l.number))

/-- The intake view (R41). -/
def intakeView (s : State) : IntakeView where
  hookLot := slotNumber s s.itk.hookLot
  weighLot := slotNumber s s.itk.weighLot
  queue := s.itk.queue.filterMap (fun i => lotNumberAt s (some i))
  transit := s.itk.transit.map (fun e => (lotNumberAt s e.lot, msUntil e.due s.clock))
  deferred := s.itk.deferred
  boundary := s.itk.boundary
  permit := s.itk.permit
  cause := s.itk.cause
  reversing := s.itk.reversing
  residue := s.itk.accumulator

/-- The slot of the live record of a lot number. -/
def slotOfLot (s : State) (number : Nat) : Option (Fin 32) :=
  s.itk.lots.lowest? (fun l =>
    match l with
    | none   => false
    | some r => decide (r.number = number))

/-- The live record of a lot number. -/
def lotOfNumber (s : State) (number : Nat) : Option Lot :=
  match slotOfLot s number with
  | none   => none
  | some i => lotAt s i

def loadView (r : LoadRecord) : LoadView := ⟨r.serial, r.tare, greenTotal r, dryTotal r, r.suspect, r.contributions⟩

/-- The fill view (R56). -/
def fillView (s : State) : FillView where
  filling := fillingKiln s
  diverter := s.kfr.diverter
  loads := s.kfr.loads.cells.map loadView
  spillRun := s.kfr.spillRun.map Prod.snd
  nextSerial := s.kfr.nextSerial

/-- The present stage of a kiln in DRYING or HELD. -/
def presentStage (kl : Kiln) : Option Stage :=
  match kl.state with
  | .drying i => some (stageAt kl i)
  | .held i   => some (stageAt kl i)
  | _         => none

/-- One kiln of the kiln view (R86). -/
def kilnView (s : State) (kl : Kiln) : KilnView where
  state := kl.state
  running := kl.running.map (fun r => (r.number, r.copy.stages.length))
  rest := kl.rest
  elapsed := kl.elapsed
  setpoint := kl.setpoint
  stage := (presentStage kl).map (fun st => (st.setpoint, st.fan, st.endKind))
  estimate := kl.estimate
  debounce := kl.debounce
  suspectRun := kl.suspectRun
  causes := kl.causes
  endpoint := kl.endpointTime
  overdryIn := kl.overdry.map (fun d => msUntil d s.clock)
  forced := kl.forced
  evalIn := kl.evalDeadline.map (fun d => msUntil d s.clock)
  burnerBound := kl.burnerBound
  fanBound := kl.fanBound
  lastBurner := kl.lastBurner
  lastFan := kl.lastFan

/-- The kiln view (R86). -/
def kilnsView (s : State) : KilnsView where
  kilns := s.kilns.cells.map (kilnView s)
  staging := s.rct.staging.map (fun g => (g.recipe, g.declared, g.stages.length))

/-- The grant record of the floor view; the seconds since the grant are rounded down (log 25). -/
def grantView (s : State) (g : Grant) : GrantView where
  kiln := g.kiln
  layer := g.layer
  net := g.net
  moisture := g.moisture
  seconds := elapsed g.time s.clock / 1000
  overrun := g.overrun.isNone
  settleIn := g.settle.map (fun d => msUntil d s.clock)

/-- The floor view (R103). -/
def floorView (s : State) : FloorView where
  requests := s.uar.requests
  grant := s.uar.grant.map (grantView s)
  book := floorBook s
  capacity := s.mgu.config.floorCapacity
  layers := s.cfl.layers.map (fun l => (l, l.restDue.map (fun d => msUntil d s.clock)))
  nextLayer := nextLayerNumber s

/-- The press view (R123). -/
def pressView (s : State) : PressView where
  state := s.pru.state
  chargeStart := s.pru.chargeStart
  tie := s.pru.tie
  settle := s.pru.settle
  settleIn := s.pru.settle.map (fun d => msUntil d s.clock)
  permit := s.pru.permit
  cause := s.pru.cause
  horizon := horizon s
  horizonLayers := (horizonLayers s).map (·.number)
  charge := if s.pru.state = .charging then some (chargeOf s, chargeLimit s) else none
  nextBale := s.pru.nextBale
  logged := s.pru.log.length
  waiting := s.pru.waiting.map Prod.snd

def ticketRow (t : Ticket) : TicketRow :=
  ⟨t.serial, t.kind, t.header.lotNumber, t.state, t.next, Ticket.segments t, Ticket.segments t⟩

/-- The ticket view (R147). -/
def ticketsView (s : State) : TicketsView where
  run := s.tku.run
  credits := s.tku.credits
  freeBlocks := freeBlocks s
  count := s.tku.queue.length
  tickets := s.tku.queue.map ticketRow
  slot := s.rlu.slot.map (·.serial)
  waiting := s.tku.waitList.map (fun e => (e.lotNumber, e.kind, neededBlocks s e))
  blocked := s.tku.blocked
  exhausted := s.tku.exhausted
  nextSerial := nextTicketSerial s

/-- The ticket of a serial. -/
def ticketOf (s : State) (serial : Nat) : Option Ticket := s.tku.queue.find? (fun t => decide (t.serial = serial))

/-- The bale record of a number in the log. -/
def baleOf (s : State) (number : Nat) : Option BaleRecord := s.pru.log.find? (fun b => decide (b.number = number))

/-- The link view (R177). -/
def linkView (s : State) : LinkView where
  address := ownAddress s
  inRange := strapOk s
  pass := s.rlu.passBuffer.length
  commands := s.rlu.commands.length
  replies := s.rlu.replies.length
  reports := s.rlu.reports.length
  slot := if s.rlu.slot.isSome then 1 else 0
  starvation := s.rlu.starvation
  guard := starvationLimit s
  silence := s.rlu.silence
  sinceFrame := s.rlu.lastFrame.map (fun t => elapsed t s.clock)
  counts := s.rlu.counts

/-! ### STATUS-READ (R187, 11.2) -/

/-- The number of parts of a view: its length over 235, rounded up, at least 1. -/
def viewParts (v : View) : Nat := 1 + ((viewBytes v).length - 1) / 235

/-- The key of a STATUS-READ. -/
def viewKey (f : Frame) : Nat := arg f 1 2

/-- The answer of a STATUS-READ for a view that its key names, or for no such item. Part 0 is always present. -/
def viewAnswer (part : Nat) : Option View → Answer
  | none   => refusal .notFound
  | some v =>
    if 0 < part ∧ viewParts v ≤ part then refusal .outOfRange else ⟨.done, .viewPart part (viewParts v) v⟩

/-- A STATUS-READ of the view that a function forms when the request is taken. -/
def statusRead (f : Frame) (form : State → Option View) : Request :=
  readRequest (argsLength f 4) (fun s => (s, viewAnswer (arg f 3 1) (form s)))

/-- STATUS_READ_DEVICE (R187). -/
def execStatusReadDevice (f : Frame) (s : State) : Host.Outcome State Fault Refusal :=
  .next (takeRequest (asksOf f 3 1) f (statusRead f (fun s => some (.device (deviceView f.src.toNat s)))) s)

/-- STATUS_READ_CHANNELS (R187). -/
def execStatusReadChannels (f : Frame) (s : State) : Host.Outcome State Fault Refusal :=
  .next (takeRequest (asksOf f 3 2) f (statusRead f (fun s => some (.channels (channelsRows s)))) s)

/-- STATUS_READ_EVENTS (R187). -/
def execStatusReadEvents (f : Frame) (s : State) : Host.Outcome State Fault Refusal :=
  .next (takeRequest (asksOf f 3 3) f (statusRead f (fun s => some (.events s.mgu.events.cells))) s)

/-- STATUS_READ_INTAKE (R41). -/
def execStatusReadIntake (f : Frame) (s : State) : Host.Outcome State Fault Refusal :=
  .next (takeRequest (asksOf f 3 4) f (statusRead f (fun s => some (.intake (intakeView s)))) s)

/-- STATUS_READ_LOT (R41). -/
def execStatusReadLot (f : Frame) (s : State) : Host.Outcome State Fault Refusal :=
  .next (takeRequest (asksOf f 3 5) f (statusRead f (fun s => (lotOfNumber s (viewKey f)).map .lot)) s)

/-- STATUS_READ_FILL (R56). -/
def execStatusReadFill (f : Frame) (s : State) : Host.Outcome State Fault Refusal :=
  .next (takeRequest (asksOf f 3 6) f (statusRead f (fun s => some (.fill (fillView s)))) s)

/-- STATUS_READ_KILNS (R86). -/
def execStatusReadKilns (f : Frame) (s : State) : Host.Outcome State Fault Refusal :=
  .next (takeRequest (asksOf f 3 7) f (statusRead f (fun s => some (.kilns (kilnsView s)))) s)

/-- STATUS_READ_FLOOR (R103). -/
def execStatusReadFloor (f : Frame) (s : State) : Host.Outcome State Fault Refusal :=
  .next (takeRequest (asksOf f 3 8) f (statusRead f (fun s => some (.floor (floorView s)))) s)

/-- STATUS_READ_PRESS (R123). -/
def execStatusReadPress (f : Frame) (s : State) : Host.Outcome State Fault Refusal :=
  .next (takeRequest (asksOf f 3 9) f (statusRead f (fun s => some (.press (pressView s)))) s)

/-- STATUS_READ_BALE (R122). -/
def execStatusReadBale (f : Frame) (s : State) : Host.Outcome State Fault Refusal :=
  .next (takeRequest (asksOf f 3 10) f (statusRead f (fun s => (baleOf s (viewKey f)).map .bale)) s)

/-- STATUS_READ_TICKETS (R147). -/
def execStatusReadTickets (f : Frame) (s : State) : Host.Outcome State Fault Refusal :=
  .next (takeRequest (asksOf f 3 11) f (statusRead f (fun s => some (.tickets (ticketsView s)))) s)

/-- STATUS_READ_TICKET (R147): the contents as they were built, masses in tenths of a kilogram (log 47). -/
def execStatusReadTicket (f : Frame) (s : State) : Host.Outcome State Fault Refusal :=
  .next (takeRequest (asksOf f 3 12) f
    (statusRead f (fun s => (ticketOf s (viewKey f)).map (fun t => .ticket ⟨t.serial, t.header, t.entries⟩))) s)

/-- STATUS_READ_LINK (R177). -/
def execStatusReadLink (f : Frame) (s : State) : Host.Outcome State Fault Refusal :=
  .next (takeRequest (asksOf f 3 13) f (statusRead f (fun s => some (.link (linkView s)))) s)

end Sys2Proof.Machine
end

