-- ==== Sys2Proof/Machine/Jobs.lean ====
section
/-! DEFINITION. The job requests (10.1): lots, kilns, the floor, the press and the tickets. -/

namespace Sys2Proof.Machine

/-! ### Lots (R22, R23, R28) -/

/-- The lowest free lot slot. -/
def freeSlot (s : State) : Option (Fin 32) := s.itk.lots.lowest? (·.isNone)

/-- The flags of a lot just opened. -/
def openedFlags (clamped untimed : Bool) : LotFlags where
  gap := false
  moistureClamped := clamped
  spill := false
  scaleSuspect := false
  forced := false
  shortBale := false
  unsettled := false
  bookShort := false
  swept := false
  untimed := untimed
  refsFull := false

/-- The green moisture that a LOT-OPEN carries is outside 600 to 900. -/
def moistureOutside (f : Frame) : Bool := decide (arg f 5 2 < 600 ∨ 900 < arg f 5 2)

/-- The record of a lot opened now (R22). -/
def openedLot (f : Frame) (s : State) : Lot where
  number := arg f 0 2
  grower := arg f 2 2
  variety := arg f 4 1
  greenMoisture := clampNat 600 900 (arg f 5 2)
  hookTarget := arg f 7 2
  hooks := 0
  state := .queued
  greenFed := 0
  spill := 0
  greenUnloaded := 0
  kilnRefs := 0
  floorMass := 0
  refs := []
  baledMass := 0
  drySum := 0
  partCount := 0
  sweepLoss := 0
  openTime := validTime s
  hookEndTime := none
  flags := openedFlags (moistureOutside f) (validTime s).isNone

/-- A lot's slot joins the tail of the intake queue. -/
def queueLot (slot : Fin 32) (s : State) : State := onItk (fun b => { b with queue := b.queue ++ [slot] }) s

/-- LOT-OPEN (R22). -/
def openLot (f : Frame) (s : State) : State × Answer :=
  if arg f 0 2 = 0 ∨ arg f 2 2 = 0 ∨ 4095 < arg f 2 2 ∨ 999 < arg f 7 2 then (s, refusal .outOfRange)
  else if (slotOfLot s (arg f 0 2)).isSome then (s, refusal .duplicate)
  else
    match freeSlot s with
    | none      => (s, refusal .noRoom)
    | some slot =>
      if 8 ≤ s.itk.queue.length then (s, refusal .noRoom)
      else
        (decideFeed (hookingTest (queueLot slot (setLot slot (some (openedLot f s)) s))),
          ⟨if moistureOutside f then .doneClamped else .done, .bytes (beBytes 1 slot.val)⟩)

/-- The intake queue without a slot; with no lot queued no hooking start is deferred (log 21). -/
def unqueueLot (slot : Fin 32) (s : State) : State :=
  let q := s.itk.queue.filter (fun i => decide (i ≠ slot))
  onItk (fun b => { b with queue := q, deferred := b.deferred && !q.isEmpty }) s

/-- The slot and record of the lot number that a request names. -/
def namedLot (f : Frame) (s : State) : Option (Fin 32 × Lot) :=
  match slotOfLot s (arg f 0 2) with
  | none   => none
  | some i => (lotAt s i).map (fun l => (i, l))

/-- LOT-CANCEL (R23). -/
def cancelLot (f : Frame) (s : State) : State × Answer :=
  match namedLot f s with
  | none           => (s, refusal .notFound)
  | some (slot, l) =>
    if l.state = .queued then (setLot slot none (unqueueLot slot s), done []) else (s, refusal .refusedState)

/-- LOT-END (R28). -/
def endLot (f : Frame) (s : State) : State × Answer :=
  match namedLot f s with
  | none           => (s, refusal .notFound)
  | some (slot, l) => if l.state = .hooking then (endHooking slot s, done []) else (s, refusal .refusedState)

/-! ### Kilns (R55, R63, R66, R79, R81, R82, R85) -/

/-- An owner of the kiln that a request names; OUT-OF-RANGE above 3. -/
def forKiln (f : Frame) (owner : Fin 4 → State → State × Answer) (s : State) : State × Answer :=
  match kilnOf (arg f 0 1) with
  | none   => (s, refusal .outOfRange)
  | some k => owner k s

/-- KILN-START (R66). -/
def startKiln (k : Fin 4) (s : State) : State × Answer :=
  if (s.kilns.get k).state = .loaded ∧ hasRecipe s k = true then (startDrying k s, done []) else (s, refusal .refusedState)

/-- A kiln in DRYING or HELD. -/
def running (kl : Kiln) : Bool :=
  match kl.state with
  | .drying _ => true
  | .held _   => true
  | _         => false

/-- KILN-HOLD (R79). -/
def holdRequest (k : Fin 4) (s : State) : State × Answer :=
  if running (s.kilns.get k) then (holdKiln k operatorCause s, done []) else (s, refusal .refusedState)

/-- The plenum lets a kiln resume (R81). -/
def plenumAllows (s : State) (k : Fin 4) : Bool :=
  isLive s (setupOf s k).plenum && decide (heldValue s (setupOf s k).plenum ≤ ((setupOf s k).ceiling : Int))

/-- KILN-RESUME (R81). -/
def resumeRequest (k : Fin 4) (s : State) : State × Answer :=
  match (s.kilns.get k).state with
  | .held i => if plenumAllows s k then (resume k i s, done []) else (s, refusal .refusedState)
  | _       => (s, refusal .refusedState)

/-- KILN-FORCE-END (R82, R83). -/
def forceEnd (k : Fin 4) (s : State) : State × Answer :=
  match (s.kilns.get k).state with
  | .loaded   => (forceLoaded k s, done [])
  | .drying _ => (forceRunning k s, done [])
  | .held _   => (forceRunning k s, done [])
  | .orphan   => (forceOrphan k s, done [])
  | _         => (s, refusal .refusedState)

/-- KILN-FILL-CLOSE (R55). -/
def closeFill (k : Fin 4) (s : State) : State × Answer :=
  if (s.kilns.get k).state = .filling ∧ (loadOf s k).contributions ≠ [] then (enterLoaded k s, done [])
  else (s, refusal .refusedState)

/-- KILN-CLEAR (R85). -/
def clearKiln (k : Fin 4) (s : State) : State × Answer :=
  if (s.kilns.get k).state = .orphan then (selectKiln (emptyKiln k s), done []) else (s, refusal .refusedState)

/-- The assigned recipe of a kiln's setup entry set. -/
def assignRecipe (k : Fin 4) (number : Nat) (s : State) : State :=
  onKfr (fun b => { b with setups := b.setups.modify k (fun e => { e with recipe := number }) }) s

/-- KILN-RECIPE (R63). -/
def recipeRequest (f : Frame) (k : Fin 4) (s : State) : State × Answer :=
  if 8 < arg f 1 1 then (s, refusal .outOfRange) else (assignRecipe k (arg f 1 1) s, done [])

/-! ### The floor and the press (R102, R108) -/

/-- The layers that FLOOR-CLEAR removes. -/
def sweptLayers (s : State) : List Layer := s.cfl.layers.filter swept

/-- FLOOR-CLEAR (R102). -/
def clearFloorRequest (s : State) : State × Answer :=
  if s.pru.state = .idle then
    (clearFloor s, done (beBytes 1 (sweptLayers s).length ++ beBytes 4 (sat32 (lotGrams (sweptLayers s)))
      ++ beBytes 4 (sat32 (unassignedGrams (sweptLayers s)))))
  else (s, refusal .refusedState)

/-- PRESS-ABORT (R108). -/
def abortPress (s : State) : State × Answer :=
  if s.pru.state = .charging ∨ s.pru.state = .pressing then (decidePress (idlePress s), done [])
  else (s, refusal .refusedState)

/-! ### Tickets (R143 to R146) -/

/-- The credits replaced. -/
def setCredits (n : Nat) (s : State) : State := onTku (fun b => { b with credits := n }) s

/-- The transmitter state replaced. -/
def setRun (run : Bool) (s : State) : State := onTku (fun b => { b with run := run }) s

/-- The CREDIT-EXHAUSTED test and the offer test. -/
def sendTests (s : State) : State := offerTest (exhaustedTest s)

/-- TICKET-CREDIT in ADD mode (R143); a mode byte above 1 names no value of its field (R191). -/
def addCredits (f : Frame) (s : State) : State × Answer :=
  if arg f 0 1 = 0 then
    let n := min 255 (s.tku.credits + arg f 1 1)
    (sendTests (setCredits n s), done (beBytes 1 n))
  else (s, refusal .outOfRange)

/-- TICKET-CREDIT in SET mode (R143). -/
def setCreditsRequest (f : Frame) (s : State) : State × Answer :=
  let n := arg f 1 1
  let s' := setCredits n s
  (sendTests (if n = 0 then withdraw s' else s'), done (beBytes 1 n))

/-- TICKET-STOP (R144). -/
def stopTickets (s : State) : State × Answer := (withdraw (setRun false s), done [])

/-- TICKET-RUN (R144): while RUN it changes nothing. -/
def runTickets (s : State) : State × Answer := (if s.tku.run then s else sendTests (setRun true s), done [])

/-- TICKET-REWIND (R146). -/
def rewindTickets (s : State) : State × Answer :=
  (sendTests (withdraw (onTku (fun b => { b with queue := b.queue.map rewound }) s)),
    done (beBytes 1 (s.tku.queue.filter (fun t => decide (t.state ≠ .sendable))).length))

/-- The queue without the ticket of a serial. -/
def dropTicket (serial : Nat) (s : State) : State :=
  onTku (fun b => { b with queue := b.queue.filter (fun t => decide (t.serial ≠ serial)) }) s

/-- TICKET-RELEASE (R145). -/
def releaseTicket (f : Frame) (s : State) : State × Answer :=
  if arg f 0 2 = 0 then (s, refusal .outOfRange)
  else
    match ticketOf s (arg f 0 2) with
    | none   => (s, refusal .notFound)
    | some t =>
      if t.state = .sent then
        let s' := dropTicket t.serial s
        (buildTest s', done (beBytes 1 (freeBlocks s')))
      else (s, refusal .refusedState)

/-! ### The rows -/

/-- LOT_OPEN (R22). -/
def execLotOpen (f : Frame) (s : State) : Host.Outcome State Fault Refusal :=
  .next (takeRequest (asks f 11) f (jobRequest (argsLength f 9) (openLot f)) s)

/-- LOT_CANCEL (R23). -/
def execLotCancel (f : Frame) (s : State) : Host.Outcome State Fault Refusal :=
  .next (takeRequest (asks f 12) f (jobRequest (argsLength f 2) (cancelLot f)) s)

/-- LOT_END (R28). -/
def execLotEnd (f : Frame) (s : State) : Host.Outcome State Fault Refusal :=
  .next (takeRequest (asks f 13) f (jobRequest (argsLength f 2) (endLot f)) s)

/-- KILN_START (R66). -/
def execKilnStart (f : Frame) (s : State) : Host.Outcome State Fault Refusal :=
  .next (takeRequest (asks f 14) f (jobRequest (argsLength f 1) (forKiln f startKiln)) s)

/-- KILN_HOLD (R79). -/
def execKilnHold (f : Frame) (s : State) : Host.Outcome State Fault Refusal :=
  .next (takeRequest (asks f 15) f (jobRequest (argsLength f 1) (forKiln f holdRequest)) s)

/-- KILN_RESUME (R81). -/
def execKilnResume (f : Frame) (s : State) : Host.Outcome State Fault Refusal :=
  .next (takeRequest (asks f 16) f (jobRequest (argsLength f 1) (forKiln f resumeRequest)) s)

/-- KILN_FORCE_END (R82). -/
def execKilnForceEnd (f : Frame) (s : State) : Host.Outcome State Fault Refusal :=
  .next (takeRequest (asks f 17) f (jobRequest (argsLength f 1) (forKiln f forceEnd)) s)

/-- KILN_FILL_CLOSE (R55). -/
def execKilnFillClose (f : Frame) (s : State) : Host.Outcome State Fault Refusal :=
  .next (takeRequest (asks f 18) f (jobRequest (argsLength f 1) (forKiln f closeFill)) s)

/-- KILN_CLEAR (R85). -/
def execKilnClear (f : Frame) (s : State) : Host.Outcome State Fault Refusal :=
  .next (takeRequest (asks f 19) f (weighmasterRequest (argsLength f 1) (forKiln f clearKiln)) s)

/-- KILN_RECIPE (R63). -/
def execKilnRecipe (f : Frame) (s : State) : Host.Outcome State Fault Refusal :=
  .next (takeRequest (asks f 20) f (jobRequest (argsLength f 2) (forKiln f (recipeRequest f))) s)

/-- FLOOR_CLEAR (R102). -/
def execFloorClear (f : Frame) (s : State) : Host.Outcome State Fault Refusal :=
  .next (takeRequest (asks f 21) f (weighmasterRequest (argsLength f 0) clearFloorRequest) s)

/-- PRESS_ABORT (R108). -/
def execPressAbort (f : Frame) (s : State) : Host.Outcome State Fault Refusal :=
  .next (takeRequest (asks f 22) f (jobRequest (argsLength f 0) abortPress) s)

/-- TICKET_CREDIT_ADD (R143). -/
def execTicketCreditAdd (f : Frame) (s : State) : Host.Outcome State Fault Refusal :=
  .next (takeRequest (asksCreditAdd f) f (jobRequest (argsLength f 2) (addCredits f)) s)

/-- TICKET_CREDIT_SET (R143). -/
def execTicketCreditSet (f : Frame) (s : State) : Host.Outcome State Fault Refusal :=
  .next (takeRequest (asksCreditSet f) f (jobRequest (argsLength f 2) (setCreditsRequest f)) s)

/-- TICKET_STOP (R144). -/
def execTicketStop (f : Frame) (s : State) : Host.Outcome State Fault Refusal :=
  .next (takeRequest (asks f 24) f (jobRequest (argsLength f 0) stopTickets) s)

/-- TICKET_RUN (R144). -/
def execTicketRun (f : Frame) (s : State) : Host.Outcome State Fault Refusal :=
  .next (takeRequest (asks f 25) f (jobRequest (argsLength f 0) runTickets) s)

/-- TICKET_REWIND (R146). -/
def execTicketRewind (f : Frame) (s : State) : Host.Outcome State Fault Refusal :=
  .next (takeRequest (asks f 26) f (jobRequest (argsLength f 0) rewindTickets) s)

/-- TICKET_RELEASE (R145). -/
def execTicketRelease (f : Frame) (s : State) : Host.Outcome State Fault Refusal :=
  .next (takeRequest (asks f 27) f (weighmasterRequest (argsLength f 2) (releaseTicket f)) s)

end Sys2Proof.Machine
end

