-- ==== Sys2Proof/Machine/Setup.lean ====
section
/-! DEFINITION. The requests served in either mode that are no table or status request: recipe loads, the time, events and
START. -/

namespace Sys2Proof.Machine

/-! ### Staged recipe loads (R60 to R62) -/

/-- The staging area replaced. -/
def setStaging (g : Option Staging) (s : State) : State := onRct (fun b => { b with staging := g }) s

/-- RECIPE-BEGIN (R60). -/
def beginRecipe (f : Frame) (s : State) : State × Answer :=
  let number := arg f 0 1
  let declared := arg f 1 1
  let rest := arg f 2 2
  if number = 0 ∨ 8 < number ∨ declared = 0 ∨ 6 < declared then (s, refusal .outOfRange)
  else (setStaging (some ⟨number, declared, min rest 1440, []⟩) s, doneClamped (decide (1440 < rest)))

/-- The stage that a RECIPE-STAGE carries, as carried but for its end kind. -/
def carriedStage (f : Frame) (kind : EndKind) : Stage :=
  ⟨arg f 1 2, arg f 3 2, arg f 5 1, kind, arg f 7 2, arg f 9 2, arg f 11 2⟩

/-- A stage's fields clamped; a max then below the min is taken as the min (R61). -/
def clampStage (st : Stage) : Stage :=
  let min' := clampNat 1 1440 st.min
  { st with
    setpoint := clampNat 300 850 st.setpoint
    fan := min st.fan 1000
    ramp := min st.ramp 100
    threshold := min st.threshold 1000
    min := min'
    max := max min' (clampNat 1 1440 st.max) }

/-- RECIPE-STAGE (R61). -/
def stageRecipe (f : Frame) (s : State) : State × Answer :=
  match s.rct.staging with
  | none   => (s, refusal .sequence)
  | some g =>
    if arg f 0 1 ≠ g.stages.length + 1 ∨ g.declared < arg f 0 1 then (setStaging none s, refusal .sequence)
    else
      match EndKind.ofCode (arg f 6 1) with
      | none      => (s, refusal .outOfRange)
      | some kind =>
        let st := clampStage (carriedStage f kind)
        (setStaging (some { g with stages := g.stages ++ [st] }) s, doneClamped (decide (st ≠ carriedStage f kind)))

/-- RECIPE-END (R62). -/
def endRecipe (f : Frame) (s : State) : State × Answer :=
  match s.rct.staging with
  | none   => (s, refusal .sequence)
  | some g =>
    if arg f 0 1 ≠ g.declared ∨ g.stages.length ≠ g.declared then (setStaging none s, refusal .sequence)
    else
      (setStaging none (onRct (fun b => { b with recipes := b.recipes.put (g.recipe - 1) ⟨g.rest, g.stages⟩ }) s),
        done [])

/-! ### Time of day and events (R184 to R186) -/

/-- TIME-SET (R184): the next second starts afresh from this moment. -/
def setTime (f : Frame) (s : State) : State × Answer :=
  ((onMgu (fun b => { b with
      timeOfDay := BitVec.ofNat 32 (arg f 0 4), timeValid := true, nextSecond := after s.clock 1000 }) s), done [])

/-- Kind `i` is in an event set: kind n at bit n − 1 (11.1). -/
def inEventSet (f : Frame) (i : Nat) : Bool := (arg f 0 4).testBit i

/-- The event cells, each changed by its index. -/
def mapEvents (g : Fin 24 → EventCell → EventCell) (s : State) : State :=
  onMgu (fun b => { b with events := b.events.mapIdx g }) s

/-- EVENT-ENABLE (R185). -/
def enableEvents (f : Frame) (s : State) : State × Answer :=
  let s' := mapEvents (fun i e => { e with enable := inEventSet f i.val }) s
  ((onMgu (fun b => { b with reportDest := some f.src.toNat }) s'), done [])

/-- An event cell cleared. -/
def clearedCell (e : EventCell) : EventCell := { e with flag := false, count := 0 }

/-- The kinds of an event set, in code order. -/
def kindsIn (f : Frame) : List (Fin 24) := (List.finRange 24).filter (fun i => inEventSet f i.val)

/-- EVENT-CLEAR (R186). -/
def clearEvents (f : Frame) (s : State) : State × Answer :=
  (mapEvents (fun i e => if inEventSet f i.val then clearedCell e else e) s,
    done ((kindsIn f).flatMap (fun i => beBytes 1 (s.mgu.events.get i).count)))

/-! ### START (R84, R188) -/

/-- A kiln meets the orphan check (R84). -/
def isOrphan (s : State) (k : Fin 4) : Bool :=
  (setupOf s k).enabled && decide ((s.kilns.get k).state = .empty) && isLive s (setupOf s k).scale &&
    decide ((s.mgu.config.emptyThreshold : Int) < heldValue s (setupOf s k).scale)

/-- The orphan check of one kiln (R84). -/
def orphanCheck (s : State) (k : Fin 4) : State :=
  if isOrphan s k then postEvent .orphanLoad (kilnContext k) (postBurner k 0 (moveKiln k .orphan s)) else s

/-- Bit k for each kiln that the orphan check takes. -/
def orphanBits (s : State) : Nat := bitsNat ((List.finRange 4).map (isOrphan s))

/-- START (R188): the mode, the orphan checks (their order open, log 4), then the first tests of the ITK, KFR and PRU. -/
def startDevice (s : State) : State × Answer :=
  if started s || !s.mgu.configValid then (s, refusal .refusedState)
  else
    let s1 := onMgu (fun b => { b with mode := .started }) s
    let (order, s2) := inChosenOrder (List.finRange 4) s1
    let s3 := order.foldl orphanCheck s2
    (decidePress (selectKiln (decideFeed (hookingTest s3))), done (beBytes 1 (orphanBits s1)))

/-! ### The rows -/

/-- RECIPE_BEGIN (R60). -/
def execRecipeBegin (f : Frame) (s : State) : Host.Outcome State Fault Refusal :=
  .next (takeRequest (asks f 4) f (setupRequest (argsLength f 4) (beginRecipe f)) s)

/-- RECIPE_STAGE (R61). -/
def execRecipeStage (f : Frame) (s : State) : Host.Outcome State Fault Refusal :=
  .next (takeRequest (asks f 5) f (setupRequest (argsLength f 13) (stageRecipe f)) s)

/-- RECIPE_END (R62). -/
def execRecipeEnd (f : Frame) (s : State) : Host.Outcome State Fault Refusal :=
  .next (takeRequest (asks f 6) f (setupRequest (argsLength f 1) (endRecipe f)) s)

/-- TIME_SET (R184). -/
def execTimeSet (f : Frame) (s : State) : Host.Outcome State Fault Refusal :=
  .next (takeRequest (asks f 7) f (setupRequest (argsLength f 4) (setTime f)) s)

/-- EVENT_ENABLE (R185). -/
def execEventEnable (f : Frame) (s : State) : Host.Outcome State Fault Refusal :=
  .next (takeRequest (asks f 8) f (setupRequest (argsLength f 4) (enableEvents f)) s)

/-- EVENT_CLEAR (R186). -/
def execEventClear (f : Frame) (s : State) : Host.Outcome State Fault Refusal :=
  .next (takeRequest (asks f 9) f (setupRequest (argsLength f 4) (clearEvents f)) s)

/-- START (R188). -/
def execStart (f : Frame) (s : State) : Host.Outcome State Fault Refusal :=
  .next (takeRequest (asks f 10) f (setupRequest (argsLength f 0) startDevice) s)

end Sys2Proof.Machine
end

