-- ==== Sys2Proof/Machine/Tables.lean ====
section
/-! DEFINITION. Section 10.3: TABLE-READ and TABLE-WRITE of the seven tables. -/

namespace Sys2Proof.Machine

/-! ### Windows (R182) -/

/-- A window lies within the indices `lo` to `hi`. -/
def windowIn (lo hi first count : Nat) : Bool := decide (lo ≤ first ∧ first + count ≤ hi + 1)

/-- The form of a TABLE-READ: three arguments, and a window count that is not 0 (R179). -/
def readForm (f : Frame) : Bool := argsLength f 3 && decide (arg f 2 1 ≠ 0)

/-- The form of a TABLE-WRITE of entries of `size` bytes: exactly the entries its count declares (R179). -/
def writeForm (f : Frame) (size : Nat) : Bool := decide (arg f 2 1 ≠ 0) && argsLength f (3 + arg f 2 1 * size)

/-- The form of a TABLE-WRITE of a table whose entries have no write layout (log 18). -/
def headForm (f : Frame) : Bool := decide (3 ≤ (args f).length ∧ arg f 2 1 ≠ 0)

/-- As many whole entries as fit in a room of bytes. -/
def fitting : Nat → List (List Byte) → List (List Byte)
  | _,    []      => []
  | room, e :: es => if e.length ≤ room then e :: fitting (room - e.length) es else []

/-- The answer of a TABLE-READ: the first index, the number of entries returned, and the entries that fit in a reply
payload of 240 bytes with its five header bytes (R182, 11.2). -/
def readAnswer (lo hi : Nat) (entries : List (List Byte)) (f : Frame) (s : State) : State × Answer :=
  let first := arg f 1 1
  let count := arg f 2 1
  if windowIn lo hi first count then
    let es := fitting 235 ((entries.drop (first - lo)).take count)
    (s, done (beBytes 1 first ++ beBytes 1 es.length ++ es.flatten))
  else (s, refusal .outOfRange)

/-- A TABLE-READ of a table whose entries read as the byte lists that a function gives. -/
def tableRead (f : Frame) (lo hi : Nat) (entries : State → List (List Byte)) : Request :=
  readRequest (readForm f) (fun s => readAnswer lo hi (entries s) f s)

/-- The bytes of the entries that a TABLE-WRITE carries. -/
def entryChunks (size : Nat) : Nat → List Byte → List (List Byte)
  | 0,     _  => []
  | n + 1, bs => bs.take size :: entryChunks size n (bs.drop size)

/-- The entries of `size` bytes that a TABLE-WRITE carries. -/
def writtenEntries (f : Frame) (size : Nat) : List (List Byte) := entryChunks size (arg f 2 1) ((args f).drop 3)

/-- A TABLE-WRITE owner with the window rule of R182 first. -/
def inWindow (f : Frame) (lo hi : Nat) (owner : State → State × Answer) (s : State) : State × Answer :=
  if windowIn lo hi (arg f 1 1) (arg f 2 1) then owner s else (s, refusal .outOfRange)

/-- A yes-or-no byte names no value (log 16). -/
def badFlag (bs : List Byte) (off : Nat) : Bool := decide (1 < field bs off 1)

/-- The yes-or-no field at an offset. -/
def flagAt (bs : List Byte) (off : Nat) : Bool := decide (field bs off 1 = 1)

/-- All of a list of checked entries, or none if one is refused. -/
def collect {α : Type} : List (Option α) → Option (List α)
  | []           => some []
  | none :: _    => none
  | some x :: xs => (collect xs).map (x :: ·)

/-! ### The channel table (R3 to R5) -/

/-- The range of a channel kind (R3). -/
def kindRange : ChannelKind → Int × Int
  | .temp    => (-500, 2000)
  | .rh      => (0, 1000)
  | .mass    => (0, 2147483647)
  | .load    => (0, 60000)
  | .speed   => (-5000, 5000)
  | .generic => (-2147483648, 2147483647)

/-- The source and kind bytes of a channel entry are in range, and its valid byte is yes or no (R3). -/
def channelInRange (bs : List Byte) : Bool :=
  !badFlag bs 0 && decide (1 ≤ field bs 1 1 ∧ field bs 1 1 ≤ 126 ∧ field bs 2 1 ≤ 15)

/-- The channel that an entry writes, its status reset (R3, R4), and whether a field was clamped; none if refused. -/
def writtenChannel (bs : List Byte) : Option (Channel × Bool) :=
  match ChannelKind.ofCode (field bs 3 1) with
  | none => none
  | some kind =>
    let lo := (kindRange kind).1
    let hi := (kindRange kind).2
    let low := clampInt lo hi (fieldInt bs 11 4)
    let high := clampInt lo hi (fieldInt bs 15 4)
    let n := min (field bs 10 1) 7
    if channelInRange bs && decide (low ≤ high) then
      some ({ Channel.powerOn with
          valid := flagAt bs 0, sourceNode := field bs 1 1, sourceChannel := field bs 2 1, kind := kind
          gain := fieldInt bs 4 2, offset := fieldInt bs 6 4, exponent := n, low := low, high := high },
        decide (low ≠ fieldInt bs 11 4 ∨ high ≠ fieldInt bs 15 4 ∨ n ≠ field bs 10 1))
    else none

/-- The pairs of source node and source channel of the valid entries. -/
def sourcePairs (t : Tab Channel 64) : List (Nat × Nat) :=
  (t.cells.filter (·.valid)).map (fun c => (c.sourceNode, c.sourceChannel))

/-- An index lies in a write's window. -/
def inWrite (f : Frame) (i : Nat) : Bool := decide (arg f 1 1 ≤ i ∧ i < arg f 1 1 + arg f 2 1)

/-- The SMN's checks and acts on a channel table write (R2 to R4). -/
def writeChannels (f : Frame) (s : State) : State × Answer :=
  match collect ((writtenEntries f 19).map writtenChannel) with
  | none    => (s, refusal .outOfRange)
  | some cs =>
    let t := s.channels.putFrom (arg f 1 1) (cs.map Prod.fst)
    if (sourcePairs t).Nodup then
      (deliverAll (leavingNotices s.clock (fun i => inWrite f i.val) s) (setChannels t s),
        doneClamped (cs.any Prod.snd))
    else (s, refusal .duplicate)

/-- A kind that only a WEIGHMASTER writes (R5). -/
def weighedKind (k : ChannelKind) : Bool := decide (k = .mass ∨ k = .load)

/-- A channel table write is a weighmaster item (R5). -/
def channelItem (f : Frame) (s : State) : Bool :=
  (writtenEntries f 19).any (fun bs => decide (field bs 3 1 = 2 ∨ field bs 3 1 = 3)) ||
  (List.finRange 64).any (fun i => inWrite f i.val && weighedKind (s.channels.get i).kind)

/-- The classes that may write channels (R181). -/
def mayWriteChannels (f : Frame) (s : State) (c : NodeClass) : Bool :=
  if channelItem f s then isWeighmaster c else isOperator c

/-! ### The actuator table (R173) -/

/-- The function that an actuator write carries; a code that names none reads as OTHER, and is refused. -/
def writtenFunction (bs : List Byte) : ActuatorFunction := (ActuatorFunction.ofCode (field bs 3 1)).getD .other

/-- The entry that an actuator write carries. A kiln byte above 3, which R173 refuses for BURNER and FAN alone, names no kiln,
and the entry holds the free value `unused` (log 44). -/
def writtenActuator (unused : Fin 4) (bs : List Byte) : Actuator :=
  ⟨flagAt bs 0, field bs 1 1, field bs 2 1, writtenFunction bs, (kilnOf (field bs 4 1)).getD unused⟩

/-- The entries that an actuator write carries, each with the free value of its place. -/
def writtenActuators (count : Nat) (es : List (List Byte)) : List Actuator :=
  es.mapIdx (fun i bs => writtenActuator (Config.unusedKiln count i) bs)

/-- The fields of an actuator entry that R173 answers OUT-OF-RANGE. -/
def actuatorOutOfRange (bs : List Byte) : Bool :=
  badFlag bs 0 || decide (field bs 1 1 = 0 ∨ 126 < field bs 1 1 ∨ 6 < field bs 3 1) ||
  (decide (writtenFunction bs = .burner ∨ writtenFunction bs = .fan) && decide (3 < field bs 4 1))

/-- Two valid entries name the same actuator. -/
def sameActuator (a b : Actuator) : Bool := a.valid && b.valid && decide (a.node = b.node ∧ a.number = b.number)

/-- The entry at an index names an actuator that another entry of the table names. -/
def actuatorTaken (t : Tab Actuator 24) (i : Nat) : Bool :=
  (List.range 24).any (fun j => decide (j ≠ i) && sameActuator (t.getD i Actuator.powerOn) (t.getD j Actuator.powerOn))

/-- The first failure of the entries of an actuator write, in index order, against the table after the write (R173). An entry that
is both out of range and a duplicate is OUT-OF-RANGE, and of two carried entries with one pair the earlier fails (log 48). -/
def actuatorFailure (t : Tab Actuator 24) : Nat → List (List Byte) → Option Status
  | _, []      => none
  | i, e :: es =>
    if actuatorOutOfRange e then some .outOfRange
    else if actuatorTaken t i then some .duplicate
    else actuatorFailure t (i + 1) es

/-- A command's actuator is the pair of some valid entry. -/
def namedActuator (t : Tab Actuator 24) (c : Command) : Bool :=
  t.cells.any (fun a => a.valid && decide (a.node = c.node ∧ a.number = c.number))

/-- The actuator table replaced. -/
def setActuators (t : Tab Actuator 24) (s : State) : State := { s with actuators := t }

/-- The command queue without the commands whose actuator no valid entry names (R170). -/
def purgeCommands (t : Tab Actuator 24) (s : State) : State :=
  onRlu (fun b => { b with commands := b.commands.filter (namedActuator t) }) s

/-- The CGD's checks and acts on an actuator table write, and the purge of the command queue (R173, R170). -/
def writeActuators (f : Frame) (s : State) : State × Answer :=
  let es := writtenEntries f 5
  let t := s.actuators.putFrom (arg f 1 1) (writtenActuators s.freeCount es)
  match actuatorFailure t (arg f 1 1) es with
  | some st => (s, refusal st)
  | none    => (purgeCommands t (setActuators t (useFreeValue s)), done [])

/-! ### The node-class table (R180 to R182) -/

/-- The node-class entry written; none if refused (R182, log 16, log 17). -/
def writtenNodeClass (bs : List Byte) : Option NodeClassEntry :=
  if !badFlag bs 0 && decide (field bs 1 1 ≤ 127 ∧ field bs 2 1 ≤ 127 ∧ (field bs 3 1 = 1 ∨ field bs 3 1 = 2)) then
    some ⟨flagAt bs 0, field bs 1 1, field bs 2 1, decide (field bs 3 1 = 2)⟩
  else none

/-- The MGU's checks and acts on a node-class write. -/
def writeNodeClasses (f : Frame) (s : State) : State × Answer :=
  match collect ((writtenEntries f 4).map writtenNodeClass) with
  | none    => (s, refusal .outOfRange)
  | some es => ((onMgu (fun b => { b with nodeClasses := b.nodeClasses.putFrom (arg f 1 1) es }) s), done [])

/-- The classes that may write the node-class table (R181). -/
def mayWriteClasses (s : State) (c : NodeClass) : Bool := !started s || isWeighmaster c

/-! ### The kiln setup entries (R45) -/

/-- The fields of a kiln setup entry that R45 answers OUT-OF-RANGE. -/
def setupOutOfRange (bs : List Byte) : Bool :=
  badFlag bs 0 || badFlag bs 15 ||
  decide (63 < field bs 1 1 ∨ 63 < field bs 2 1 ∨ 63 < field bs 3 1 ∨ 23 < field bs 4 1 ∨ 23 < field bs 5 1
    ∨ 8 < field bs 14 1)

/-- The kiln setup entry written, its fields clamped, and whether one was (R44, R45). -/
def writtenSetup (bs : List Byte) : KilnSetup × Bool :=
  let capacity := clampNat 1000000 20000000 (field bs 6 4)
  let ceiling := clampNat 300 900 (field bs 10 2)
  let holdFan := min (field bs 12 2) 1000
  ({ enabled := flagAt bs 0, scale := field bs 1 1, plenum := field bs 2 1, exhaust := field bs 3 1
     burner := field bs 4 1, fan := field bs 5 1, greenCapacity := capacity, ceiling := ceiling, holdFan := holdFan
     recipe := field bs 14 1, autostart := flagAt bs 15 },
   decide (capacity ≠ field bs 6 4 ∨ ceiling ≠ field bs 10 2 ∨ holdFan ≠ field bs 12 2))

/-- The first failure of the entries of a kiln setup write, in index order (R45); the kiln's state is tested before the entry's
fields (log 39). -/
def setupFailure (s : State) : Nat → List (List Byte) → Option Status
  | _, []      => none
  | k, e :: es =>
    if (s.kilns.getD k Kiln.powerOn).state ≠ .empty then some .refusedState
    else if setupOutOfRange e then some .outOfRange
    else setupFailure s (k + 1) es

/-- The KFR's checks and acts on a kiln setup write (R45), with the tests that follow it (R47, R52, R38). -/
def writeSetups (f : Frame) (s : State) : State × Answer :=
  let es := writtenEntries f 16
  match setupFailure s (arg f 1 1) es with
  | some st => (s, refusal st)
  | none    =>
    let ws := es.map writtenSetup
    let s' := onKfr (fun b => { b with setups := b.setups.putFrom (arg f 1 1) (ws.map Prod.fst) }) s
    (decideFeed (lowRoomClose (selectKiln s')), doneClamped (ws.any Prod.snd))

/-! ### The CONFIG record (R183) -/

/-- The CONFIG record that a write carries, as carried (11.3). -/
def writtenConfig (bs : List Byte) : StationConfig where
  beltLoad := field bs 0 1
  beltSpeed := field bs 1 1
  hookNode := field bs 2 1
  pressNode := field bs 3 1
  unloadNode := field bs 4 1
  transitDelay := field bs 5 2
  feedQuantum := field bs 7 4
  feederSlow := field bs 11 2
  pressScale := field bs 13 1
  pressCharge := field bs 14 1
  baleTarget := field bs 15 4
  baleTolerance := field bs 19 2
  baleTare := field bs 21 2
  settleLimit := field bs 23 2
  pressSlowBand := field bs 25 2
  pressSlow := field bs 27 2
  reference := field bs 29 2
  floorCapacity := field bs 31 4
  emptyThreshold := field bs 35 4
  unloadSettle := field bs 39 2
  unloadTimeout := field bs 41 2
  overdryLimit := field bs 43 2
  evalInterval := field bs 45 2
  mismatch := field bs 47 2
  overtempMargin := field bs 49 2
  starvationGuard := field bs 51 2
  idleTimeout := field bs 53 2

/-- A node address in 1 to 126. -/
def nodeInRange (n : Nat) : Bool := decide (1 ≤ n ∧ n ≤ 126)

/-- The channel indices and node addresses of a CONFIG record are in range (R183 step 1). -/
def configInRange (c : StationConfig) : Bool :=
  decide (c.beltLoad ≤ 63 ∧ c.beltSpeed ≤ 63 ∧ c.pressScale ≤ 63 ∧ c.pressCharge ≤ 63) &&
  nodeInRange c.hookNode && nodeInRange c.pressNode && nodeInRange c.unloadNode

/-- The other fields clamped to their ranges of section 10.4 (R183 step 2). -/
def clampConfig (c : StationConfig) : StationConfig :=
  { c with
    transitDelay := clampNat 0 600 c.transitDelay
    feedQuantum := clampNat 10000 1000000 c.feedQuantum
    feederSlow := clampNat 50 1000 c.feederSlow
    baleTarget := clampNat 20000 250000 c.baleTarget
    baleTolerance := clampNat 0 20000 c.baleTolerance
    baleTare := clampNat 0 5000 c.baleTare
    settleLimit := clampNat 1 60 c.settleLimit
    pressSlowBand := clampNat 0 50000 c.pressSlowBand
    pressSlow := clampNat 50 1000 c.pressSlow
    reference := clampNat 50 150 c.reference
    floorCapacity := clampNat 0 40000000 c.floorCapacity
    emptyThreshold := clampNat 0 200000 c.emptyThreshold
    unloadSettle := clampNat 5 120 c.unloadSettle
    unloadTimeout := clampNat 5 240 c.unloadTimeout
    overdryLimit := clampNat 10 720 c.overdryLimit
    evalInterval := clampNat 5 60 c.evalInterval
    mismatch := clampNat 10 300 c.mismatch
    overtempMargin := clampNat 0 200 c.overtempMargin
    starvationGuard := clampNat 4 64 c.starvationGuard
    idleTimeout := clampNat 10 1000 c.idleTimeout }

/-- The belt integration reset when the belt load channel changes (R36). -/
def resetBelt (changed : Bool) (s : State) : State :=
  if changed then onItk (fun b => { b with prevBelt := none, accumulator := 0 }) s else s

/-- The timing of port A after a CONFIG write (R172): it starts at the first write, and a later write's timeout applies to
the silence in progress. -/
def retimeSilence (first : Bool) (s : State) : State :=
  if first then onRlu (fun b => { b with silenceFrom := some s.clock }) s else silenceTest s

/-- The test of one reader of the CONFIG record after an accepted write (R183): the first write or a later one, with the belt
load channel changed or not. -/
def configTest (first changed : Bool) (s : State) : ConfigReader → State
  | .itk => decideFeed (resetBelt changed s)
  | .kfr => lowRoomClose s
  | .uar => grantTest s
  | .pru => decidePress s
  | .rlu => retimeSilence first s

/-- The tests that the readers of the CONFIG record tie to an accepted write (R183); their order is open (log 30). -/
def configWritten (before : Mgu) (s : State) : State :=
  let first := !before.configValid
  let changed := first || decide (before.config.beltLoad ≠ s.mgu.config.beltLoad)
  let (order, s') := inChosenOrder [ConfigReader.itk, .kfr, .uar, .pru, .rlu] s
  order.foldl (configTest first changed) s'

/-- The record that a CONFIG write carries. -/
def carriedConfig (f : Frame) : StationConfig := writtenConfig ((args f).drop 3)

/-- The MGU's checks and acts on a CONFIG write (R183). -/
def writeConfig (f : Frame) (s : State) : State × Answer :=
  let c := clampConfig (carriedConfig f)
  if configInRange (carriedConfig f) && decide (floorBook s ≤ c.floorCapacity) then
    (configWritten s.mgu (onMgu (fun b => { b with config := c, configValid := true }) s),
      doneClamped (decide (c ≠ carriedConfig f)))
  else (s, refusal .outOfRange)

/-- A CONFIG write is a weighmaster item (R181), by the first record it carries (log 43). -/
def configItem (f : Frame) (s : State) : Bool :=
  s.mgu.configValid &&
  decide ((carriedConfig f).reference ≠ s.mgu.config.reference ∨ (carriedConfig f).baleTolerance ≠ s.mgu.config.baleTolerance
    ∨ (carriedConfig f).mismatch ≠ s.mgu.config.mismatch)

/-- The classes that may write the CONFIG record (R181). -/
def mayWriteConfig (f : Frame) (s : State) (c : NodeClass) : Bool :=
  if configItem f s then isWeighmaster c else isOperator c

/-! ### The entries as they read (11.3) -/

def channelEntries (s : State) : List (List Byte) := s.channels.cells.map (fun c => channelBytes c (channelView s.clock c))
def actuatorEntries (s : State) : List (List Byte) := s.actuators.cells.map actuatorBytes
def nodeClassEntries (s : State) : List (List Byte) := s.mgu.nodeClasses.cells.map nodeClassBytes
def setupEntries (s : State) : List (List Byte) := s.kfr.setups.cells.map kilnSetupBytes
def configEntries (s : State) : List (List Byte) := [configBytes s.mgu.config s.mgu.configValid]
def recipeEntries (s : State) : List (List Byte) := s.rct.recipes.cells.map recipeBytes

/-- The bale log by position, newest first (R122). -/
def baleEntries (s : State) : List (List Byte) := s.pru.log.reverse.map baleBytes

/-! ### The rows -/

/-- TABLE_READ_CHANNEL (R15, R182). -/
def execTableReadChannel (f : Frame) (s : State) : Host.Outcome State Fault Refusal :=
  .next (takeRequest (asksOf f 1 1) f (tableRead f 0 63 channelEntries) s)

/-- TABLE_READ_ACTUATOR (R173, R182). -/
def execTableReadActuator (f : Frame) (s : State) : Host.Outcome State Fault Refusal :=
  .next (takeRequest (asksOf f 1 2) f (tableRead f 0 23 actuatorEntries) s)

/-- TABLE_READ_NODE_CLASS (R180, R182). -/
def execTableReadNodeClass (f : Frame) (s : State) : Host.Outcome State Fault Refusal :=
  .next (takeRequest (asksOf f 1 3) f (tableRead f 0 15 nodeClassEntries) s)

/-- TABLE_READ_KILN_SETUP (R44, R182). -/
def execTableReadKilnSetup (f : Frame) (s : State) : Host.Outcome State Fault Refusal :=
  .next (takeRequest (asksOf f 1 4) f (tableRead f 0 3 setupEntries) s)

/-- TABLE_READ_CONFIG (R182). -/
def execTableReadConfig (f : Frame) (s : State) : Host.Outcome State Fault Refusal :=
  .next (takeRequest (asksOf f 1 5) f (tableRead f 0 0 configEntries) s)

/-- TABLE_READ_RECIPE (R62, R182). -/
def execTableReadRecipe (f : Frame) (s : State) : Host.Outcome State Fault Refusal :=
  .next (takeRequest (asksOf f 1 6) f (tableRead f 1 8 recipeEntries) s)

/-- TABLE_READ_BALE_LOG (R122). -/
def execTableReadBaleLog (f : Frame) (s : State) : Host.Outcome State Fault Refusal :=
  .next (takeRequest (asksOf f 1 7) f (tableRead f 0 95 baleEntries) s)

/-- TABLE_WRITE_CHANNEL (R3 to R5). -/
def execTableWriteChannel (f : Frame) (s : State) : Host.Outcome State Fault Refusal :=
  .next (takeRequest (asksOf f 2 1) f ⟨writeForm f 19, mayWriteChannels f, false, inWindow f 0 63 (writeChannels f)⟩ s)

/-- TABLE_WRITE_ACTUATOR (R173). -/
def execTableWriteActuator (f : Frame) (s : State) : Host.Outcome State Fault Refusal :=
  .next (takeRequest (asksOf f 2 2) f (setupRequest (writeForm f 5) (inWindow f 0 23 (writeActuators f))) s)

/-- TABLE_WRITE_NODE_CLASS (R180, R181). -/
def execTableWriteNodeClass (f : Frame) (s : State) : Host.Outcome State Fault Refusal :=
  .next (takeRequest (asksOf f 2 3) f ⟨writeForm f 4, mayWriteClasses, false, inWindow f 0 15 (writeNodeClasses f)⟩ s)

/-- TABLE_WRITE_KILN_SETUP (R45). -/
def execTableWriteKilnSetup (f : Frame) (s : State) : Host.Outcome State Fault Refusal :=
  .next (takeRequest (asksOf f 2 4) f (setupRequest (writeForm f 16) (inWindow f 0 3 (writeSetups f))) s)

/-- TABLE_WRITE_CONFIG (R183). -/
def execTableWriteConfig (f : Frame) (s : State) : Host.Outcome State Fault Refusal :=
  .next (takeRequest (asksOf f 2 5) f ⟨writeForm f 55, mayWriteConfig f, false, inWindow f 0 0 (writeConfig f)⟩ s)

/-- The owner of a table that TABLE-WRITE does not write (R182). -/
def refuseWrite (s : State) : State × Answer := (s, refusal .refusedState)

/-- TABLE_WRITE_RECIPE (R182). -/
def execTableWriteRecipe (f : Frame) (s : State) : Host.Outcome State Fault Refusal :=
  .next (takeRequest (asksOf f 2 6) f (setupRequest (headForm f) (inWindow f 1 8 refuseWrite)) s)

/-- TABLE_WRITE_BALE_LOG (R122, R182). -/
def execTableWriteBaleLog (f : Frame) (s : State) : Host.Outcome State Fault Refusal :=
  .next (takeRequest (asksOf f 2 7) f (setupRequest (headForm f) (inWindow f 0 95 refuseWrite)) s)

end Sys2Proof.Machine
end

