-- ==== Sys2Proof/Machine/Dispatch.lean ====
section
/-! DEFINITION. One arm for each command. -/

namespace Sys2Proof.Machine

/-- The effect of a command on everything but the queue. -/
def exec (i : Instr) (s : State) : Host.Outcome State Fault Refusal :=
  match i with
  | .powerOn straps => Sys2Proof.Machine.execPowerOn straps s
  | .badFrame wire => Sys2Proof.Machine.execBadFrame wire s
  | .ownFrameRemoved f => Sys2Proof.Machine.execOwnFrameRemoved f s
  | .sampleFrame f => Sys2Proof.Machine.execSampleFrame f s
  | .hook f => Sys2Proof.Machine.execHook f s
  | .hookShort f => Sys2Proof.Machine.execHookShort f s
  | .chargeStart f => Sys2Proof.Machine.execChargeStart f s
  | .pressCycle f => Sys2Proof.Machine.execPressCycle f s
  | .baleTied f => Sys2Proof.Machine.execBaleTied f s
  | .unloadDone f => Sys2Proof.Machine.execUnloadDone f s
  | .commandFrame f => Sys2Proof.Machine.execCommandFrame f s
  | .restart f => Sys2Proof.Machine.execRestart f s
  | .passThroughFrame f => Sys2Proof.Machine.execPassThroughFrame f s
  | .frameBoundary => Sys2Proof.Machine.execFrameBoundary s
  | .channelStaleDeadline c => Sys2Proof.Machine.execChannelStaleDeadline c s
  | .transitEntryDue => Sys2Proof.Machine.execTransitEntryDue s
  | .evaluationExpiry k => Sys2Proof.Machine.execEvaluationExpiry k s
  | .overdryDeadline k => Sys2Proof.Machine.execOverdryDeadline k s
  | .unloadSettleDeadline => Sys2Proof.Machine.execUnloadSettleDeadline s
  | .unloadOverrunDeadline => Sys2Proof.Machine.execUnloadOverrunDeadline s
  | .layerRestDue layer => Sys2Proof.Machine.execLayerRestDue layer s
  | .pressSettleDeadline => Sys2Proof.Machine.execPressSettleDeadline s
  | .ringIdleTimeout => Sys2Proof.Machine.execRingIdleTimeout s
  | .timeOfDaySecond => Sys2Proof.Machine.execTimeOfDaySecond s
  | .requestUndefined f => Sys2Proof.Machine.execRequestUndefined f s
  | .tableReadChannel f => Sys2Proof.Machine.execTableReadChannel f s
  | .tableReadActuator f => Sys2Proof.Machine.execTableReadActuator f s
  | .tableReadNodeClass f => Sys2Proof.Machine.execTableReadNodeClass f s
  | .tableReadKilnSetup f => Sys2Proof.Machine.execTableReadKilnSetup f s
  | .tableReadConfig f => Sys2Proof.Machine.execTableReadConfig f s
  | .tableReadRecipe f => Sys2Proof.Machine.execTableReadRecipe f s
  | .tableReadBaleLog f => Sys2Proof.Machine.execTableReadBaleLog f s
  | .tableWriteChannel f => Sys2Proof.Machine.execTableWriteChannel f s
  | .tableWriteActuator f => Sys2Proof.Machine.execTableWriteActuator f s
  | .tableWriteNodeClass f => Sys2Proof.Machine.execTableWriteNodeClass f s
  | .tableWriteKilnSetup f => Sys2Proof.Machine.execTableWriteKilnSetup f s
  | .tableWriteConfig f => Sys2Proof.Machine.execTableWriteConfig f s
  | .tableWriteRecipe f => Sys2Proof.Machine.execTableWriteRecipe f s
  | .tableWriteBaleLog f => Sys2Proof.Machine.execTableWriteBaleLog f s
  | .statusReadDevice f => Sys2Proof.Machine.execStatusReadDevice f s
  | .statusReadChannels f => Sys2Proof.Machine.execStatusReadChannels f s
  | .statusReadEvents f => Sys2Proof.Machine.execStatusReadEvents f s
  | .statusReadIntake f => Sys2Proof.Machine.execStatusReadIntake f s
  | .statusReadLot f => Sys2Proof.Machine.execStatusReadLot f s
  | .statusReadFill f => Sys2Proof.Machine.execStatusReadFill f s
  | .statusReadKilns f => Sys2Proof.Machine.execStatusReadKilns f s
  | .statusReadFloor f => Sys2Proof.Machine.execStatusReadFloor f s
  | .statusReadPress f => Sys2Proof.Machine.execStatusReadPress f s
  | .statusReadBale f => Sys2Proof.Machine.execStatusReadBale f s
  | .statusReadTickets f => Sys2Proof.Machine.execStatusReadTickets f s
  | .statusReadTicket f => Sys2Proof.Machine.execStatusReadTicket f s
  | .statusReadLink f => Sys2Proof.Machine.execStatusReadLink f s
  | .recipeBegin f => Sys2Proof.Machine.execRecipeBegin f s
  | .recipeStage f => Sys2Proof.Machine.execRecipeStage f s
  | .recipeEnd f => Sys2Proof.Machine.execRecipeEnd f s
  | .timeSet f => Sys2Proof.Machine.execTimeSet f s
  | .eventEnable f => Sys2Proof.Machine.execEventEnable f s
  | .eventClear f => Sys2Proof.Machine.execEventClear f s
  | .start f => Sys2Proof.Machine.execStart f s
  | .lotOpen f => Sys2Proof.Machine.execLotOpen f s
  | .lotCancel f => Sys2Proof.Machine.execLotCancel f s
  | .lotEnd f => Sys2Proof.Machine.execLotEnd f s
  | .kilnStart f => Sys2Proof.Machine.execKilnStart f s
  | .kilnHold f => Sys2Proof.Machine.execKilnHold f s
  | .kilnResume f => Sys2Proof.Machine.execKilnResume f s
  | .kilnForceEnd f => Sys2Proof.Machine.execKilnForceEnd f s
  | .kilnFillClose f => Sys2Proof.Machine.execKilnFillClose f s
  | .kilnClear f => Sys2Proof.Machine.execKilnClear f s
  | .kilnRecipe f => Sys2Proof.Machine.execKilnRecipe f s
  | .floorClear f => Sys2Proof.Machine.execFloorClear f s
  | .pressAbort f => Sys2Proof.Machine.execPressAbort f s
  | .ticketCreditAdd f => Sys2Proof.Machine.execTicketCreditAdd f s
  | .ticketCreditSet f => Sys2Proof.Machine.execTicketCreditSet f s
  | .ticketStop f => Sys2Proof.Machine.execTicketStop f s
  | .ticketRun f => Sys2Proof.Machine.execTicketRun f s
  | .ticketRewind f => Sys2Proof.Machine.execTicketRewind f s
  | .ticketRelease f => Sys2Proof.Machine.execTicketRelease f s
  | .malformedMarkFrame f => Sys2Proof.Machine.execMalformedMarkFrame f s

end Sys2Proof.Machine
end

