-- ==== Sys2Proof/Safety.lean ====
section
/-! DEFINITION. What counts as a safe run, and the words that statements are made of: invariants, what a command finds
when it is taken, and what a command leaves alone. -/

namespace Sys2Proof.Machine

/-- A step that goes on: no fault and no refusal. -/
def GoesOn (o : Host.Outcome State Fault Refusal) : Prop := ∃ t, o = .next t

/-- A run of `n` steps that goes on throughout. -/
def SafeRun (n : Nat) (s : State) : Prop := GoesOn (Sys2Proof.core.run n s)

/-! ### The ring link (R167, R168, R170, R171) -/

/-- The actuator of a command: its node and actuator number. -/
def commandActuator (c : Command) : Nat × Nat := (c.node, c.number)

/-- The actuator of an actuator table entry. -/
def entryActuator (a : Actuator) : Nat × Nat := (a.node, a.number)

/-- Every command of the queue names a valid actuator entry, and no two the same actuator (R170). -/
abbrev CommandsOk (s : State) : Prop :=
  (∀ c ∈ s.rlu.commands, ∃ a ∈ s.actuators.cells, a.valid = true ∧ entryActuator a = commandActuator c) ∧
  (s.rlu.commands.map commandActuator).Nodup

/-- The collections of the ring link are within their capacities, and F within its range. -/
abbrev LinkBounded (s : State) : Prop :=
  s.rlu.passBuffer.length ≤ 2 ∧ s.rlu.replies.length ≤ 8 ∧ s.rlu.reports.length ≤ 8 ∧ s.rlu.starvation ≤ 64 ∧
  (s.mgu.configValid = true → s.mgu.config.starvationGuard ≤ 64)

/-- The invariant of the ring link. -/
abbrev LinkInv (s : State) : Prop := LinkBounded s ∧ CommandsOk s

/-! ### The conditioning floor (R99) -/

/-- A layer's shares sum to its remaining mass, which is 0 with no share while RECEIVING (R99). -/
abbrev LayerOk (l : Layer) : Prop :=
  (l.shares.map (·.grams)).sum = l.remaining ∧ (l.state = .receiving → l.shares = [])

/-- Every layer of the floor is so. -/
abbrev FloorInv (s : State) : Prop := ∀ l ∈ s.cfl.layers, LayerOk l

/-- The layer list holds at most 16 layers, the floor book is within the floor capacity, no layer number stands twice, and the
layer that receives under the grant has its net at grant as provisional mass (R92, R99, R101). -/
abbrev RoomInv (s : State) : Prop :=
  s.cfl.layers.length ≤ 16 ∧ floorBook s ≤ s.mgu.config.floorCapacity ∧ (s.cfl.layers.map (·.number)).Nodup ∧
  ∀ g ∈ s.uar.grant, ∀ l ∈ s.cfl.layers, l.state = .receiving → l.number = g.layer → l.provisional = g.net

/-! ### Counts that hold at their top (R26, R143, R185) -/

/-- Event counts hold at 255, and the credits do not pass 255. -/
abbrev CountsInv (s : State) : Prop := (∀ e ∈ s.mgu.events.cells, e.count ≤ 255) ∧ s.tku.credits ≤ 255

/-! ### The ticket store (R129, R136) and the filling kiln (R47) -/

/-- The queued tickets' blocks do not exceed 64, the queue holds at most 32, and no serial twice (R129, R136). -/
abbrev TicketsInv (s : State) : Prop :=
  (s.tku.queue.map Ticket.segments).sum ≤ 64 ∧ s.tku.queue.length ≤ 32 ∧ (s.tku.queue.map (·.serial)).Nodup

/-- At most one kiln is FILLING (R47). -/
def FillingInv (s : State) : Prop :=
  ∀ j k : Fin 4, (s.kilns.get j).state = .filling → (s.kilns.get k).state = .filling → j = k

/-! ### What a command finds when it is taken -/

/-- The state after an accepted frame has been heard and counted (R172, R177). -/
def taken (s : State) : State := withCounts (fun c => { c with accepted := bump32 c.accepted }) (heard s)

/-- The state after a REQUEST for the device has been heard, counted and consumed (R166, R177). -/
def asked (s : State) : State := withCounts (fun c => { c with requestsConsumed := bump32 c.requestsConsumed }) (taken s)

/-- The frame comes from a node other than the device, and to it: a source from 1 to 126 (R165, R166, R179 step 1). -/
abbrev Asked (s : State) (f : Frame) : Prop :=
  strapOk s = true ∧ f.dst = ownByte s ∧ f.src ≠ ownByte s ∧ 1 ≤ f.src.toNat ∧ f.src.toNat ≤ 126

/-- A request of a node whose class is OPERATOR or WEIGHMASTER (R180). -/
abbrev OperatorAsks (s : State) (f : Frame) : Prop := Asked s f ∧ isOperator (classOf s f.src.toNat) = true

/-- The same in started mode: what a job request needs. -/
abbrev OperatorWorks (s : State) (f : Frame) : Prop := OperatorAsks s f ∧ started s = true

/-- A request of a WEIGHMASTER node in started mode: what a weighmaster item among the job requests needs. -/
abbrev WeighmasterWorks (s : State) (f : Frame) : Prop :=
  Asked s f ∧ isWeighmaster (classOf s f.src.toNat) = true ∧ started s = true

/-- The reply posted and an idle port B's choice made, in the state that the owner of the request has left (R168, R179). -/
def answered (f : Frame) (a : Answer) (s : State) : State := startPortB (postReply ⟨f.src.toNat, f.payload.take 2, a⟩ s)

/-- A mark that its reader takes: in started mode, from the node that the CONFIG record names, and not the device's own. -/
abbrev MarkTaken (s : State) (f : Frame) (node : StationConfig → Nat) : Prop :=
  started s = true ∧ s.mgu.configValid = true ∧ f.src.toNat = node s.mgu.config ∧ fromOwn s f = false

/-- A mark that its reader passes over: in transparent mode, with no valid CONFIG record, or from another node. -/
abbrev MarkPassed (s : State) (f : Frame) (node : StationConfig → Nat) : Prop :=
  started s = false ∨ s.mgu.configValid = false ∨ f.src.toNat ≠ node s.mgu.config

/-! ### What a command leaves alone -/

/-- The books of the job blocks are unchanged: lots, loads, kilns, unload, floor, press and bale log. -/
def SameBooks (s t : State) : Prop :=
  t.itk = s.itk ∧ t.kfr = s.kfr ∧ t.kilns = s.kilns ∧ t.uar = s.uar ∧ t.cfl = s.cfl ∧ t.pru = s.pru

/-- The tables and settings are unchanged: channels, actuators, recipes, and the MGU but for its event cells. -/
def SameTables (s t : State) : Prop :=
  t.channels = s.channels ∧ t.actuators = s.actuators ∧ t.rct = s.rct ∧ t.mgu = { s.mgu with events := t.mgu.events }

/-- What a ticket carries and keeps while it is sent: serial, kind, header and entries. -/
def ticketContents (t : Ticket) : Nat × TicketKind × TicketHeader × List TicketEntry := (t.serial, t.kind, t.header, t.entries)

/-- The tickets and the wait list are unchanged, but for how far each ticket has been sent. -/
def SameTickets (s t : State) : Prop :=
  t.tku.waitList = s.tku.waitList ∧ t.tku.nextSerial = s.tku.nextSerial ∧ t.tku.run = s.tku.run ∧
  t.tku.blocked = s.tku.blocked ∧ t.tku.queue.map ticketContents = s.tku.queue.map ticketContents

/-- The waiting commands, the open choices, the clock and the node address are unchanged. -/
def SameSurroundings (s t : State) : Prop :=
  t.pending = s.pending ∧ t.sched = s.sched ∧ t.clock = s.clock ∧ t.rlu.address = s.rlu.address

/-- Only the ring link has moved: its queues and counts, the sending of tickets, the credits and the event cells. -/
def LinkOnly (s t : State) : Prop := SameBooks s t ∧ SameTables s t ∧ SameTickets s t ∧ SameSurroundings s t

/-! ### The requests, row by row (10.1, R181, R182, R187) -/

/-- A request of a code, with arguments of a length (11.2). -/
abbrev Carries (f : Frame) (code n : Nat) : Prop := asks f code = true ∧ argsLength f n = true

/-- What the checks of R179 need of the frame of a row. -/
structure RequestRow where
  row   : Frame → Instr
  ofRow : Frame → Bool
  form  : Frame → Bool
  may   : Frame → State → NodeClass → Bool
  job   : Bool

/-- A request of any class. -/
def anyClass : Frame → State → NodeClass → Bool := fun _ _ _ => true

/-- A request of the OPERATOR or WEIGHMASTER class. -/
def operatorClass : Frame → State → NodeClass → Bool := fun _ _ c => isOperator c

/-- A request of the WEIGHMASTER class. -/
def weighmasterClass : Frame → State → NodeClass → Bool := fun _ _ c => isWeighmaster c

/-- A TABLE-READ: the row, its table code, its indices and its entries as they read. -/
structure TableReadRow where
  row     : Frame → Instr
  code    : Nat
  lo      : Nat
  hi      : Nat
  entries : State → List (List Byte)

/-- The seven tables (R182). -/
def tableReadRows : List TableReadRow :=
  [⟨.tableReadChannel, 1, 0, 63, channelEntries⟩, ⟨.tableReadActuator, 2, 0, 23, actuatorEntries⟩,
   ⟨.tableReadNodeClass, 3, 0, 15, nodeClassEntries⟩, ⟨.tableReadKilnSetup, 4, 0, 3, setupEntries⟩,
   ⟨.tableReadConfig, 5, 0, 0, configEntries⟩, ⟨.tableReadRecipe, 6, 1, 8, recipeEntries⟩,
   ⟨.tableReadBaleLog, 7, 0, 95, baleEntries⟩]

/-- A STATUS-READ: the row, its view code, and the view it forms. -/
structure StatusReadRow where
  row  : Frame → Instr
  code : Nat
  view : Frame → State → Option View

/-- The thirteen views (R187); a view of one item has the key of the request. -/
def statusReadRows : List StatusReadRow :=
  [⟨.statusReadDevice, 1, fun f s => some (.device (deviceView f.src.toNat s))⟩,
   ⟨.statusReadChannels, 2, fun _ s => some (.channels (channelsRows s))⟩,
   ⟨.statusReadEvents, 3, fun _ s => some (.events s.mgu.events.cells)⟩,
   ⟨.statusReadIntake, 4, fun _ s => some (.intake (intakeView s))⟩,
   ⟨.statusReadLot, 5, fun f s => (lotOfNumber s (viewKey f)).map .lot⟩,
   ⟨.statusReadFill, 6, fun _ s => some (.fill (fillView s))⟩,
   ⟨.statusReadKilns, 7, fun _ s => some (.kilns (kilnsView s))⟩,
   ⟨.statusReadFloor, 8, fun _ s => some (.floor (floorView s))⟩,
   ⟨.statusReadPress, 9, fun _ s => some (.press (pressView s))⟩,
   ⟨.statusReadBale, 10, fun f s => (baleOf s (viewKey f)).map .bale⟩,
   ⟨.statusReadTickets, 11, fun _ s => some (.tickets (ticketsView s))⟩,
   ⟨.statusReadTicket, 12, fun f s => (ticketOf s (viewKey f)).map (fun t => .ticket ⟨t.serial, t.header, t.entries⟩)⟩,
   ⟨.statusReadLink, 13, fun _ s => some (.link (linkView s))⟩]

/-- TABLE-WRITE by table, with the classes of R181. -/
def tableWriteRows : List RequestRow :=
  [⟨.tableWriteChannel, (asksOf · 2 1), (writeForm · 19), mayWriteChannels, false⟩,
   ⟨.tableWriteActuator, (asksOf · 2 2), (writeForm · 5), operatorClass, false⟩,
   ⟨.tableWriteNodeClass, (asksOf · 2 3), (writeForm · 4), fun _ => mayWriteClasses, false⟩,
   ⟨.tableWriteKilnSetup, (asksOf · 2 4), (writeForm · 16), operatorClass, false⟩,
   ⟨.tableWriteConfig, (asksOf · 2 5), (writeForm · 55), mayWriteConfig, false⟩,
   ⟨.tableWriteRecipe, (asksOf · 2 6), headForm, operatorClass, false⟩,
   ⟨.tableWriteBaleLog, (asksOf · 2 7), headForm, operatorClass, false⟩]

/-- The first and last index of each table of TABLE-WRITE, in the order of the rows (R182). -/
def writeIndices : List (Nat × Nat) := [(0, 63), (0, 23), (0, 15), (0, 3), (0, 0), (1, 8), (0, 95)]

/-- An index of a table lies in the window of a table request. -/
abbrev InWindow (f : Frame) (i : Nat) : Prop := arg f 1 1 ≤ i ∧ i < arg f 1 1 + arg f 2 1

/-- The bytes of the entry for index `i` that a TABLE-WRITE of entries of `size` bytes carries (11.2). -/
def entryFor (f : Frame) (size i : Nat) : List Byte := ((args f).drop (3 + size * (i - arg f 1 1))).take size

/-- The requests of the OPERATOR class that are served in either mode. -/
def setupRows : List RequestRow :=
  [⟨.recipeBegin, (asks · 4), (argsLength · 4), operatorClass, false⟩,
   ⟨.recipeStage, (asks · 5), (argsLength · 13), operatorClass, false⟩,
   ⟨.recipeEnd, (asks · 6), (argsLength · 1), operatorClass, false⟩,
   ⟨.timeSet, (asks · 7), (argsLength · 4), operatorClass, false⟩,
   ⟨.eventEnable, (asks · 8), (argsLength · 4), operatorClass, false⟩,
   ⟨.eventClear, (asks · 9), (argsLength · 4), operatorClass, false⟩,
   ⟨.start, (asks · 10), (argsLength · 0), operatorClass, false⟩]

/-- The job requests of the OPERATOR class. -/
def jobRows : List RequestRow :=
  [⟨.lotOpen, (asks · 11), (argsLength · 9), operatorClass, true⟩,
   ⟨.lotCancel, (asks · 12), (argsLength · 2), operatorClass, true⟩,
   ⟨.lotEnd, (asks · 13), (argsLength · 2), operatorClass, true⟩,
   ⟨.kilnStart, (asks · 14), (argsLength · 1), operatorClass, true⟩,
   ⟨.kilnHold, (asks · 15), (argsLength · 1), operatorClass, true⟩,
   ⟨.kilnResume, (asks · 16), (argsLength · 1), operatorClass, true⟩,
   ⟨.kilnForceEnd, (asks · 17), (argsLength · 1), operatorClass, true⟩,
   ⟨.kilnFillClose, (asks · 18), (argsLength · 1), operatorClass, true⟩,
   ⟨.kilnRecipe, (asks · 20), (argsLength · 2), operatorClass, true⟩,
   ⟨.pressAbort, (asks · 22), (argsLength · 0), operatorClass, true⟩,
   ⟨.ticketCreditAdd, asksCreditAdd, (argsLength · 2), operatorClass, true⟩,
   ⟨.ticketCreditSet, asksCreditSet, (argsLength · 2), operatorClass, true⟩,
   ⟨.ticketStop, (asks · 24), (argsLength · 0), operatorClass, true⟩,
   ⟨.ticketRun, (asks · 25), (argsLength · 0), operatorClass, true⟩,
   ⟨.ticketRewind, (asks · 26), (argsLength · 0), operatorClass, true⟩]

/-- The job requests that are weighmaster items. -/
def weighmasterRows : List RequestRow :=
  [⟨.kilnClear, (asks · 19), (argsLength · 1), weighmasterClass, true⟩,
   ⟨.floorClear, (asks · 21), (argsLength · 0), weighmasterClass, true⟩,
   ⟨.ticketRelease, (asks · 27), (argsLength · 2), weighmasterClass, true⟩]

/-- Every request row but the one of no request. -/
def requestRows : List RequestRow :=
  tableReadRows.map (fun r => ⟨r.row, (asksOf · 1 r.code), readForm, anyClass, false⟩)
    ++ statusReadRows.map (fun r => ⟨r.row, (asksOf · 3 r.code), (argsLength · 4), anyClass, false⟩)
    ++ tableWriteRows ++ setupRows ++ jobRows ++ weighmasterRows

/-- The rows of a frame that reach the ring link, the sending of tickets, the credits and the event cells only. -/
def linkRows : List (Frame → Instr) :=
  [.ownFrameRemoved, .commandFrame, .passThroughFrame, .malformedMarkFrame, .requestUndefined, .tableWriteRecipe,
    .tableWriteBaleLog, .ticketCreditAdd, .ticketCreditSet, .ticketRewind]
    ++ tableReadRows.map (·.row) ++ statusReadRows.map (·.row)

end Sys2Proof.Machine
end

