-- ==== Sys2Proof/WellFormed.lean ====
section
/-! DEFINITION. Well-formed commands: operands that the spec's encodings admit, and a frame that is of its row. -/

namespace Sys2Proof

open Machine

/-- The frame that a command carries. -/
def Instr.frame? : Instr → Option Frame
  | .powerOn _ => none
  | .badFrame _ => none
  | .ownFrameRemoved f => some f
  | .sampleFrame f => some f
  | .hook f => some f
  | .hookShort f => some f
  | .chargeStart f => some f
  | .pressCycle f => some f
  | .baleTied f => some f
  | .unloadDone f => some f
  | .commandFrame f => some f
  | .restart f => some f
  | .passThroughFrame f => some f
  | .frameBoundary => none
  | .channelStaleDeadline _ => none
  | .transitEntryDue => none
  | .evaluationExpiry _ => none
  | .overdryDeadline _ => none
  | .unloadSettleDeadline => none
  | .unloadOverrunDeadline => none
  | .layerRestDue _ => none
  | .pressSettleDeadline => none
  | .ringIdleTimeout => none
  | .timeOfDaySecond => none
  | .requestUndefined f => some f
  | .tableReadChannel f => some f
  | .tableReadActuator f => some f
  | .tableReadNodeClass f => some f
  | .tableReadKilnSetup f => some f
  | .tableReadConfig f => some f
  | .tableReadRecipe f => some f
  | .tableReadBaleLog f => some f
  | .tableWriteChannel f => some f
  | .tableWriteActuator f => some f
  | .tableWriteNodeClass f => some f
  | .tableWriteKilnSetup f => some f
  | .tableWriteConfig f => some f
  | .tableWriteRecipe f => some f
  | .tableWriteBaleLog f => some f
  | .statusReadDevice f => some f
  | .statusReadChannels f => some f
  | .statusReadEvents f => some f
  | .statusReadIntake f => some f
  | .statusReadLot f => some f
  | .statusReadFill f => some f
  | .statusReadKilns f => some f
  | .statusReadFloor f => some f
  | .statusReadPress f => some f
  | .statusReadBale f => some f
  | .statusReadTickets f => some f
  | .statusReadTicket f => some f
  | .statusReadLink f => some f
  | .recipeBegin f => some f
  | .recipeStage f => some f
  | .recipeEnd f => some f
  | .timeSet f => some f
  | .eventEnable f => some f
  | .eventClear f => some f
  | .start f => some f
  | .lotOpen f => some f
  | .lotCancel f => some f
  | .lotEnd f => some f
  | .kilnStart f => some f
  | .kilnHold f => some f
  | .kilnResume f => some f
  | .kilnForceEnd f => some f
  | .kilnFillClose f => some f
  | .kilnClear f => some f
  | .kilnRecipe f => some f
  | .floorClear f => some f
  | .pressAbort f => some f
  | .ticketCreditAdd f => some f
  | .ticketCreditSet f => some f
  | .ticketStop f => some f
  | .ticketRun f => some f
  | .ticketRewind f => some f
  | .ticketRelease f => some f
  | .malformedMarkFrame f => some f

/-- A frame's payload has the length its length field can give (11.1). -/
def Frame.fits (f : Frame) : Bool := decide (f.payload.length ≤ 240)

/-- The command's frame, bytes or number is of its row. -/
def Instr.ofRow : Instr → Bool
  | .powerOn _ => true
  | .badFrame wire => frameBad wire
  | .ownFrameRemoved _ => true
  | .sampleFrame f => kindIs f 1
  | .hook f => marks f 1
  | .hookShort f => marks f 2
  | .chargeStart f => marks f 3
  | .pressCycle f => marks f 4
  | .baleTied f => marks f 5
  | .unloadDone f => marks f 6
  | .commandFrame f => kindIs f 3
  | .restart f => kindIs f 8
  | .passThroughFrame f => passesThrough f
  | .frameBoundary => true
  | .channelStaleDeadline _ => true
  | .transitEntryDue => true
  | .evaluationExpiry _ => true
  | .overdryDeadline _ => true
  | .unloadSettleDeadline => true
  | .unloadOverrunDeadline => true
  | .layerRestDue layer => decide (1 ≤ layer ∧ layer ≤ 255)
  | .pressSettleDeadline => true
  | .ringIdleTimeout => true
  | .timeOfDaySecond => true
  | .requestUndefined f => asksNothing f
  | .tableReadChannel f => asksOf f 1 1
  | .tableReadActuator f => asksOf f 1 2
  | .tableReadNodeClass f => asksOf f 1 3
  | .tableReadKilnSetup f => asksOf f 1 4
  | .tableReadConfig f => asksOf f 1 5
  | .tableReadRecipe f => asksOf f 1 6
  | .tableReadBaleLog f => asksOf f 1 7
  | .tableWriteChannel f => asksOf f 2 1
  | .tableWriteActuator f => asksOf f 2 2
  | .tableWriteNodeClass f => asksOf f 2 3
  | .tableWriteKilnSetup f => asksOf f 2 4
  | .tableWriteConfig f => asksOf f 2 5
  | .tableWriteRecipe f => asksOf f 2 6
  | .tableWriteBaleLog f => asksOf f 2 7
  | .statusReadDevice f => asksOf f 3 1
  | .statusReadChannels f => asksOf f 3 2
  | .statusReadEvents f => asksOf f 3 3
  | .statusReadIntake f => asksOf f 3 4
  | .statusReadLot f => asksOf f 3 5
  | .statusReadFill f => asksOf f 3 6
  | .statusReadKilns f => asksOf f 3 7
  | .statusReadFloor f => asksOf f 3 8
  | .statusReadPress f => asksOf f 3 9
  | .statusReadBale f => asksOf f 3 10
  | .statusReadTickets f => asksOf f 3 11
  | .statusReadTicket f => asksOf f 3 12
  | .statusReadLink f => asksOf f 3 13
  | .recipeBegin f => asks f 4
  | .recipeStage f => asks f 5
  | .recipeEnd f => asks f 6
  | .timeSet f => asks f 7
  | .eventEnable f => asks f 8
  | .eventClear f => asks f 9
  | .start f => asks f 10
  | .lotOpen f => asks f 11
  | .lotCancel f => asks f 12
  | .lotEnd f => asks f 13
  | .kilnStart f => asks f 14
  | .kilnHold f => asks f 15
  | .kilnResume f => asks f 16
  | .kilnForceEnd f => asks f 17
  | .kilnFillClose f => asks f 18
  | .kilnClear f => asks f 19
  | .kilnRecipe f => asks f 20
  | .floorClear f => asks f 21
  | .pressAbort f => asks f 22
  | .ticketCreditAdd f => asksCreditAdd f
  | .ticketCreditSet f => asksCreditSet f
  | .ticketStop f => asks f 24
  | .ticketRun f => asks f 25
  | .ticketRewind f => asks f 26
  | .ticketRelease f => asks f 27
  | .malformedMarkFrame f => marksNothing f

/-- Well-formed: the frame, if any, fits, and the operands are of the command's row. -/
def Instr.wellFormed (i : Instr) : Bool :=
  i.ofRow &&
    match i.frame? with
    | none   => true
    | some f => f.fits

/-- The command's frame comes to the block as a frame of the command's row (R165, R166): not the device's own but for the row
of own frames, a REQUEST only when it is for the device, and as passing through only when no other row takes it. -/
def Instr.arrives (s : State) (i : Instr) : Bool :=
  match i with
  | .ownFrameRemoved f  => fromOwn s f
  | .passThroughFrame f => !fromOwn s f && !kindIs f 8 && !(kindIs f 4 && toOwn s f)
  | i =>
    match i.frame? with
    | none   => false
    | some f => !fromOwn s f && (!kindIs f 4 || toOwn s f)

end Sys2Proof
end

