-- ==== Sys2Proof/Certificates/Slice0/Obligations.lean ====
section
/-! DEFINITION. The statements for the provers, in the order of OBLIGATIONS.json. -/

open Sys2Proof Sys2Proof.Machine

/-! ### The queue, the clock and power-on -/

/-- A step takes the front command and runs it on the state with the queue's rest. -/
def Obligations.StepRunsTheFrontCommand : Prop :=
  ∀ (s : State) (c : Instr) (rest : List Instr), s.pending = c :: rest → step s = exec c { s with pending := rest }

/-- With no command waiting, the clock advances by 1 ms, or one of the deadlines that are due is put into the queue. That
this is what an idle step does is the model's choice (log 1), and the choice among several is open (log 4). -/
def Obligations.IdleStepTicksOrQueuesADueDeadline : Prop :=
  ∀ s : State, s.pending = [] →
    (dueCommands s = [] → step s = .next { s with clock := s.clock + 1 }) ∧
    (dueCommands s ≠ [] → ∃ d ∈ dueCommands s, ∃ choices, step s = .next { s with pending := [d], sched := choices })

/-- Every command has an effect, in every state, and leaves the commands waiting behind it. -/
def Obligations.EveryCommandGoesOnAndLeavesTheQueue : Prop :=
  ∀ (i : Instr) (s : State), ∃ t, exec i s = .next t ∧ t.pending = s.pending

/-- POWER_ON takes every block to its power-on values (R17, R42, R57, R87, R104, R124, R148, R173, R178, R189), with the node address
sampled from the straps (R165). -/
def Obligations.PowerOnOfEveryBlock : Prop :=
  (∀ (straps : BitVec 7) (s : State), ∃ t, exec (.powerOn straps) s = .next t ∧
    t.clock = 0 ∧
    (∀ i, t.channels.get i = ⟨false, 0, 0, .generic, 0, 0, 0, 0, 0, .unseen, 0, false, false, none, none⟩) ∧
    t.itk = ⟨t.itk.lots, [], [], none, none, false, false, 0, none, false, .hold, some .notStarted⟩ ∧
    (∀ i, t.itk.lots.get i = none) ∧
    t.kfr.diverter = none ∧ t.kfr.nextSerial = 1 ∧ t.kfr.spillRun = none ∧ fillingKiln t = none ∧
    (∀ k, t.kfr.loads.get k = ⟨none, [], 0, false⟩) ∧
    (∀ k, t.kfr.setups.get k = ⟨false, 0, 0, 0, 0, 0, 0, 300, 0, 0, false⟩) ∧
    (∀ k, t.kilns.get k = ⟨.empty, none, 0, 0, 0, 0, 0, false, ⟨false, false, false⟩, none, none, none, false, false, false,
      none, none⟩) ∧
    (∀ i, t.rct.recipes.get i = ⟨0, []⟩) ∧ t.rct.staging = none ∧
    t.uar.requests = [] ∧ t.uar.grant = none ∧ t.cfl.layers = [] ∧ t.cfl.nextNumber = 1 ∧ floorBook t = 0 ∧
    t.pru = ⟨.idle, none, none, none, 1, [], .hold, some .notStarted, []⟩ ∧ t.tku = ⟨[], [], 1, true, 0, false, false⟩) ∧
  (∀ (straps : BitVec 7) (s : State), ∃ t, exec (.powerOn straps) s = .next t ∧
    t.rlu.address = straps ∧ t.rlu.passBuffer = [] ∧ t.rlu.portB = none ∧ t.rlu.commands = [] ∧ t.rlu.replies = [] ∧ t.rlu.reports = [] ∧
    t.rlu.slot = none ∧ t.rlu.starvation = 0 ∧ t.rlu.silence = false ∧ t.rlu.silenceFrom = none ∧
    t.rlu.counts = ⟨0, 0, 0, 0, 0, 0, 0, 0, 0, 0, 0, 0, 0, Tab.fill 7 0⟩ ∧
    (∀ i, t.actuators.get i = ⟨false, 0, 0, .other, 0⟩) ∧
    t.mgu.mode = .transparent ∧ (∀ i, t.mgu.nodeClasses.get i = ⟨false, 0, 0, false⟩) ∧ t.mgu.configValid = false ∧
    t.mgu.config = StationConfig.powerOn ∧ t.mgu.timeOfDay = 0 ∧ t.mgu.timeValid = false ∧
    (∀ i, t.mgu.events.get i = ⟨false, false, 0⟩) ∧ t.mgu.reportDest = none)

/-- R42: the intake unit at power-on.
R148: the ticket unit at power-on, and the CREDIT-EXHAUSTED test of an empty queue. -/
def Obligations.IntakeAndTicketUnitAtPowerOn : Prop :=
  (∀ (straps : BitVec 7) (s : State), ∃ t, exec (.powerOn straps) s = .next t ∧
    (∀ i, t.itk.lots.get i = none) ∧ t.itk.queue = [] ∧ t.itk.transit = [] ∧ t.itk.deferred = false ∧
    t.itk.boundary = false ∧ t.itk.hookLot = none ∧ t.itk.weighLot = none ∧ t.itk.accumulator = 0 ∧
    t.itk.prevBelt = none ∧ t.itk.reversing = false ∧ t.itk.permit = .hold ∧ t.itk.cause = some .notStarted ∧
    ∀ e ∈ t.mgu.events.cells, e.flag = false ∧ e.count = 0) ∧
  ((∀ (straps : BitVec 7) (s : State), ∃ t, exec (.powerOn straps) s = .next t ∧
    t.tku.waitList = [] ∧ t.tku.queue = [] ∧ freeBlocks t = 64 ∧ t.tku.nextSerial = 1 ∧ t.tku.run = true ∧
    t.tku.credits = 0 ∧ t.tku.blocked = false ∧ t.tku.exhausted = false ∧
    ∀ e ∈ t.mgu.events.cells, e.flag = false ∧ e.count = 0) ∧
  ∀ s : State, s.tku.queue = [] → (exhaustedTest s).mgu = s.mgu ∧ (exhaustedTest s).rlu = s.rlu)

/-- Reset is the power-on state with no command waiting. That the straps stand at 1 is the model's choice (log 6).
The invariants hold at reset. -/
def Obligations.ResetIsPowerOnAndTheInvariantsHold : Prop :=
  (State.reset.pending = [] ∧ ownAddress State.reset = 1 ∧ started State.reset = false ∧
  exec (.powerOn 1) State.reset = .next State.reset) ∧
  (LinkInv State.reset ∧ FloorInv State.reset ∧ RoomInv State.reset ∧ CountsInv State.reset ∧ TicketsInv State.reset ∧ FillingInv State.reset)

/-- The frame of the settings, for every command: the clock and node address stand, and each table, the CONFIG record, the mode,
the time, the report destination, the channels, the kiln setups and the recipes change by the commands named here alone (R4, R11
to R13, R18, R45, R60 to R63, R173, R180, R183 to R185, R188). Power-on changes them all. -/
def Obligations.SettingsChangeByTheirOwnCommandsAlone : Prop :=
  ∀ (i : Instr) (s t : State), exec i s = .next t → (∀ straps, i ≠ .powerOn straps) →
    t.clock = s.clock ∧ t.rlu.address = s.rlu.address ∧
    ((∀ f, i ≠ .tableWriteActuator f) → t.actuators = s.actuators) ∧
    ((∀ f, i ≠ .tableWriteNodeClass f) → t.mgu.nodeClasses = s.mgu.nodeClasses) ∧
    ((∀ f, i ≠ .tableWriteConfig f) → t.mgu.config = s.mgu.config ∧ t.mgu.configValid = s.mgu.configValid) ∧
    ((∀ f, i ≠ .start f) → t.mgu.mode = s.mgu.mode) ∧
    ((∀ f, i ≠ .timeSet f) → t.mgu.timeValid = s.mgu.timeValid ∧
      (i ≠ .timeOfDaySecond → t.mgu.timeOfDay = s.mgu.timeOfDay ∧ t.mgu.nextSecond = s.mgu.nextSecond)) ∧
    ((∀ f, i ≠ .eventEnable f) → t.mgu.reportDest = s.mgu.reportDest) ∧
    ((∀ f, i ≠ .sampleFrame f) → (∀ c, i ≠ .channelStaleDeadline c) → (∀ f, i ≠ .restart f) → (∀ f, i ≠ .tableWriteChannel f) →
      t.channels = s.channels) ∧
    ((∀ f, i ≠ .tableWriteKilnSetup f) → (∀ f, i ≠ .kilnRecipe f) → t.kfr.setups = s.kfr.setups) ∧
    ((∀ f, i ≠ .recipeEnd f) → t.rct.recipes = s.rct.recipes ∧
      ((∀ f, i ≠ .recipeBegin f) → (∀ f, i ≠ .recipeStage f) → (∀ f, i ≠ .restart f) → t.rct.staging = s.rct.staging))

/-! ### Invariants that every step keeps -/

/-- The queues of the link stay within their sizes, F within 64, and the commands waiting name distinct valid entries of the
actuator table (R167, R168, R170, R171).
Occurrence counts and credits stay within 255 (R143, R185). -/
def Obligations.EveryStepKeepsTheLinkAndTheCounts : Prop :=
  (∀ s t : State, LinkInv s → step s = .next t → LinkInv t) ∧
  (∀ s t : State, CountsInv s → step s = .next t → CountsInv t)

/-- A layer's shares sum to its remaining, and a RECEIVING layer has none (R99). The layer list holds at most 16 layers and no
number twice, and the floor book stays within the floor capacity (R91, R99, R101). That a number still listed is passed over is the
model's reading of R99 (log 37). -/
def Obligations.EveryStepKeepsTheFloor : Prop :=
  ∀ s t : State, step s = .next t → (FloorInv s → FloorInv t) ∧ (RoomInv s → RoomInv t)

/-- The queued tickets hold at most 64 blocks, are at most 32, and hold no serial twice (R129, R136). -/
def Obligations.EveryStepKeepsTheTicketStore : Prop :=
  ∀ s t : State, TicketsInv s → step s = .next t → TicketsInv t

/-- At most one kiln is FILLING (R47). -/
def Obligations.EveryStepKeepsOneFillingKiln : Prop :=
  ∀ s t : State, FillingInv s → step s = .next t → FillingInv t

/-! ### Frames as bytes -/

/-- A frame that fits, written as bytes, is no bad frame and reads back as itself (11.1, R164, R190).
The bytes of a well-formed command's frame, received, are that command again: for each row whose frame arrives here as
that row's (its source, destination and kind being those that R165 and R166 hand to the row). -/
def Obligations.FramesAndCommandsReadBackFromBytes : Prop :=
  (∀ f : Frame, f.fits = true → frameBad (wire f) = false ∧ frameOf (wire f) = f) ∧
  (∀ (s : State) (i : Instr) (f : Frame), i.wellFormed = true → i.frame? = some f → i.arrives s = true →
    receivedCommand s (wire f) = i)

/-! ### Arithmetic of chapters 1 and 8 -/

/-- R8: the product is divided by 1024 toward minus infinity and the offset added, in 64 bits; a gain of 0 gives the
offset. -/
def Obligations.ScalingOfAGoodArrival : Prop :=
  (∀ x g c : Int, 1024 * (scaled x g c - c) ≤ x * g ∧ x * g < 1024 * (scaled x g c - c + 1)) ∧
  (∀ x c : Int, scaled x 0 c = c) ∧
  (∀ x g : Int, x * g = -512512 → scaled x g 0 = -501) ∧
  ∀ x g c : Int, -8388608 ≤ x → x ≤ 8388607 → -32768 ≤ g → g ≤ 32767 → -2147483648 ≤ c → c ≤ 2147483647 →
    -9223372036854775808 ≤ x * g ∧ x * g ≤ 9223372036854775807 ∧
    -9223372036854775808 ≤ scaled x g c ∧ scaled x g c ≤ 9223372036854775807

/-- R155: bases, remainders, the shortfall, and the grams placed on the largest remainders, the earlier entry first among
equals.
R156: the parts sum to the total, a weight of 0 has the part 0, no part passes its weight when the total does not pass
the sum of the weights, and another order of the list gives an entry the same part where no other remainder equals its. -/
def Obligations.SplitByLargestRemainder : Prop :=
  (∀ (total : Nat) (ws : List Nat), total < 2 ^ 32 → (∀ a ∈ ws, a < 2 ^ 32) →
    (ws.sum = 0 → split total ws = none) ∧
    (ws.sum ≠ 0 → ∃ (parts : List Nat) (extra : List Bool),
      split total ws = some parts ∧ parts.length = ws.length ∧ extra.length = ws.length ∧
      (∀ (i a : Nat), ws[i]? = some a →
        total * a < 2 ^ 64 ∧ parts[i]? = some (total * a / ws.sum + if extra[i]? = some true then 1 else 0)) ∧
      extra.count true = total - (ws.map (fun a => total * a / ws.sum)).sum ∧
      (ws.map (fun a => total * a % ws.sum)).sum = (total - (ws.map (fun a => total * a / ws.sum)).sum) * ws.sum ∧
      (∀ (i a : Nat), ws[i]? = some a → extra[i]? = some true → 0 < total * a % ws.sum) ∧
      ∀ (i j a b : Nat), ws[i]? = some a → ws[j]? = some b → extra[i]? = some true → extra[j]? = some false →
        total * b % ws.sum < total * a % ws.sum ∨ (total * b % ws.sum = total * a % ws.sum ∧ i < j))) ∧
  (∀ (total : Nat) (ws parts : List Nat), split total ws = some parts →
    parts.sum = total ∧
    (∀ i : Nat, ws[i]? = some 0 → parts[i]? = some 0) ∧
    (total ≤ ws.sum → ∀ (i a p : Nat), ws[i]? = some a → parts[i]? = some p → p ≤ a) ∧
    ∀ (vs others : List Nat), ws.Perm vs → split total vs = some others →
      ∀ (i j a : Nat), ws[i]? = some a → vs[j]? = some a → ws.count a = 1 →
        (∀ b ∈ ws, total * b % ws.sum = total * a % ws.sum → b = a) → parts[i]? = others[j]?)

/-- R159: the bale's moisture.
R161: the settlement mass that a build forms, with the reference moisture in its range. -/
def Obligations.MoistureOfABaleAndSettlementMass : Prop :=
  (∀ (gross : Nat) (unsettled : Bool) (s : State),
    let bale := closedBale gross unsettled s
    let d := draws bale.net s.cfl.layers
    let m1 := moistureAt s.cfl.layers 0
    let m2 := moistureAt s.cfl.layers 1
    let excess := bale.net - d.1 - d.2
    let sum := d.1 * m1 + d.2 * m2 + excess * (if 0 < d.2 then m2 else m1)
    (d.1 = 0 ∧ d.2 = 0 → bale.moisture = s.mgu.config.reference) ∧
    (¬ (d.1 = 0 ∧ d.2 = 0) →
      2 * bale.moisture * bale.net ≤ 2 * sum + bale.net ∧ 2 * sum + bale.net < 2 * (bale.moisture + 1) * bale.net) ∧
    ((∀ l ∈ s.cfl.layers, l.moisture ≤ 999) → sum ≤ 999 * bale.net ∧
      (¬ (d.1 = 0 ∧ d.2 = 0) → bale.moisture ≤ 999))) ∧
  ((∀ (e : WaitEntry) (l : Lot) (s : State), 50 ≤ s.mgu.config.reference → s.mgu.config.reference ≤ 150 →
    850 ≤ 1000 - s.mgu.config.reference ∧ 1000 - s.mgu.config.reference ≤ 950 ∧
    ∃ q : Nat, 2 * q * (1000 - s.mgu.config.reference) ≤ 2 * l.drySum + (1000 - s.mgu.config.reference) ∧
      2 * l.drySum + (1000 - s.mgu.config.reference) < 2 * (q + 1) * (1000 - s.mgu.config.reference) ∧
      (builtTicket e l s).header.settlementGrams = min q 4294967295) ∧
  settlementGrams 10889442 100 = 12099)

/-! ### The ring link and the guard (chapter 9) -/

/-- A passing COMMAND frame: unchanged in transparent mode; in started mode dropped when its length is not 3, unchanged when no
valid entry names its actuator, and with the guard's value, counted when that differs, when one does (R174, R191).
The value that the guard gives a matched command, by the function of its entry (R175), with a value above 1000 taken as
1000 for FEEDER, PRESS-CHARGE and UNLOAD-CONVEYOR (R191). An idle port B makes its choice when the command has had its
effect (log 9). -/
def Obligations.PassingCommandsAreGuarded : Prop :=
  (∀ (f : Frame) (s : State), kindIs f 3 = true → fromOwn s f = false →
    (started s = false → exec (.commandFrame f) s = .next (startPortB (forward f (taken s)))) ∧
    (started s = true → f.payload.length ≠ 3 → exec (.commandFrame f) s =
      .next (startPortB (withCounts (fun c => { c with badDropped := bump32 c.badDropped }) (taken s)))) ∧
    (started s = true → f.payload.length = 3 →
      (guardEntry s f.dst.toNat (field f.payload 0 1) = none →
        exec (.commandFrame f) s = .next (startPortB (forward f (taken s)))) ∧
      ∀ a, guardEntry s f.dst.toNat (field f.payload 0 1) = some a →
        (guarded s a (field f.payload 1 2) = field f.payload 1 2 →
          exec (.commandFrame f) s = .next (startPortB (forward f (taken s)))) ∧
        (guarded s a (field f.payload 1 2) ≠ field f.payload 1 2 →
          exec (.commandFrame f) s = .next (startPortB (forward
            { f with payload := f.payload.take 1 ++ beBytes 2 (guarded s a (field f.payload 1 2)) }
            (countRewrite a.function (taken s))))))) ∧
  (∀ (s : State) (a : Actuator) (v : Nat),
    (a.function = .feeder →
      (s.itk.permit = .hold → guarded s a v = 0) ∧
      (s.itk.permit = .slow → guarded s a v = min (min v 1000) s.mgu.config.feederSlow) ∧
      (s.itk.permit = .go → guarded s a v = min v 1000)) ∧
    (a.function = .pressCharge →
      (s.pru.permit = .hold → guarded s a v = 0) ∧
      (s.pru.permit = .slow → guarded s a v = min (min v 1000) s.mgu.config.pressSlow) ∧
      (s.pru.permit = .go → guarded s a v = min v 1000)) ∧
    (a.function = .burner → ∀ k : Fin 4, a.kiln = k →
      ((∃ i, (s.kilns.get k).state = .drying i) → guarded s a v = min v (s.kfr.setups.get k).ceiling) ∧
      ((∀ i, (s.kilns.get k).state ≠ .drying i) → guarded s a v = 0)) ∧
    (a.function = .diverter → (s.kfr.diverter = none → guarded s a v = v) ∧
      ∀ k, s.kfr.diverter = some k → guarded s a v = k.val) ∧
    (a.function = .unloadConveyor →
      ((∃ k, (s.kilns.get k).state = .unloading) → guarded s a v = min v 1000) ∧
      ((∀ k, (s.kilns.get k).state ≠ .unloading) → guarded s a v = 0)) ∧
    ((a.function = .fan ∨ a.function = .other) → guarded s a v = v))

/-- What an accepted frame does before its row's own effect: a frame received, good or bad, clears the silence indicator and starts
the timing of R172 again, the timing from the first CONFIG write on; an accepted frame is counted, and a REQUEST for the device
is counted as consumed (R177).
A bad frame is heard, counted and dropped with one CRC-ERROR occurrence (R164). Bytes that make a good frame are no BAD_FRAME,
and the row has no effect on them (log 12).
A frame from the device's own address is removed and counted; a frame that only passes through, a malformed MARK among them, is
forwarded (R165, R166, R191).
A forwarded frame joins the tail of the pass buffer; with two frames waiting it is dropped, and one PASS-OVERFLOW is posted with
its source address (R167). A frame counts as forwarded when it is placed (log 19). An idle port B makes its choice when the
command has had its effect (log 9). -/
def Obligations.FramesDroppedRemovedOrForwarded : Prop :=
  (∀ s : State,
    let heardAt := onRlu (fun b => { b with silence := false, lastFrame := some s.clock }) s
    (s.mgu.configValid = true → heard s = onRlu (fun b => { b with silenceFrom := some s.clock }) heardAt) ∧
    (s.mgu.configValid = false → heard s = heardAt) ∧
    taken s = withCounts (fun c => { c with accepted := min (c.accepted + 1) 4294967295 }) (heard s) ∧
    asked s = withCounts (fun c => { c with requestsConsumed := min (c.requestsConsumed + 1) 4294967295 }) (taken s)) ∧
  (∀ (bytes : List Byte) (s : State),
    (frameBad bytes = true → exec (.badFrame bytes) s = .next (startPortB (postEvent .crcError noContext
      (withCounts (fun c => { c with badDropped := bump32 c.badDropped }) (heard s))))) ∧
    (frameBad bytes = false → exec (.badFrame bytes) s = .next s)) ∧
  (∀ (f : Frame) (s : State),
    (fromOwn s f = true → exec (.ownFrameRemoved f) s =
      .next (startPortB (withCounts (fun c => { c with ownRemoved := bump32 c.ownRemoved }) (taken s)))) ∧
    (fromOwn s f = false → onlyPasses s f = true →
      exec (.passThroughFrame f) s = .next (startPortB (forward f (taken s)))) ∧
    (fromOwn s f = false → marksNothing f = true →
      exec (.malformedMarkFrame f) s = .next (startPortB (forward f (taken s))))) ∧
  (∀ (f : Frame) (s : State),
    (s.rlu.passBuffer.length < 2 → ∃ t, forward f s = t ∧ t.rlu.passBuffer = s.rlu.passBuffer ++ [f] ∧
      t.rlu.counts.forwarded = min (s.rlu.counts.forwarded + 1) 4294967295 ∧ t.mgu = s.mgu) ∧
    (2 ≤ s.rlu.passBuffer.length → ∃ u, forward f s = postEvent .passOverflow (detailContext f.src.toNat) u ∧
      u.rlu.passBuffer = s.rlu.passBuffer ∧ u.mgu = s.mgu ∧
      u.rlu.counts.roomDropped = min (s.rlu.counts.roomDropped + 1) 4294967295))

/-- The choice at a frame boundary, row by row of the table of R168. The same choice is made when port B stands idle as a command
has had its effect, which is when the model makes it (log 9). -/
def Obligations.ChoiceAtAFrameBoundary : Prop :=
  ∀ s : State,
    let idleB := onRlu (fun b => { b with portB := none }) s
    (s.rlu.passBuffer = [] → inserting s = false → exec .frameBoundary s = .next idleB) ∧
    (∀ f rest, s.rlu.passBuffer = f :: rest → inserting s = false →
      ∃ t, exec .frameBoundary s = .next t ∧
        t.rlu = { s.rlu with portB := some f, passBuffer := rest, starvation := 0 }) ∧
    (∀ f rest, s.rlu.passBuffer = f :: rest → inserting s = true → s.rlu.starvation < starvationLimit s →
      ∃ t, exec .frameBoundary s = .next t ∧
        t.rlu = { s.rlu with portB := some f, passBuffer := rest, starvation := s.rlu.starvation + 1 }) ∧
    (s.rlu.passBuffer ≠ [] → inserting s = true → starvationLimit s ≤ s.rlu.starvation →
      exec .frameBoundary s = .next (insertFrame (setStarvation 0 idleB))) ∧
    (s.rlu.passBuffer = [] → inserting s = true → exec .frameBoundary s = .next (insertFrame (setStarvation 0 idleB))) ∧
    (s.rlu.portB ≠ none → startPortB s = s) ∧ (s.rlu.portB = none → exec .frameBoundary s = .next (startPortB s)) ∧
    (s.mgu.configValid = false → starvationLimit s = 64) ∧
    (s.mgu.configValid = true → starvationLimit s = s.mgu.config.starvationGuard)

/-- What the insertion arbiter takes, in its fixed order (R169): a command with the guard's value, a reply, a report, or the
ticket segment. -/
def Obligations.InsertionInTheFixedOrder : Prop :=
  ∀ s : State,
    (∀ c rest, s.rlu.commands = c :: rest → ∃ v u,
      insertFrame s = send (commandFrameOf (ownByte s) { c with value := v }) u ∧ u.rlu.commands = rest ∧
      u.rlu.replies = s.rlu.replies ∧ u.rlu.reports = s.rlu.reports ∧ u.rlu.slot = s.rlu.slot ∧
      u.rlu.counts.commandsInserted = min (s.rlu.counts.commandsInserted + 1) 4294967295 ∧
      ((started s = false ∨ guardEntry s c.node c.number = none) → v = c.value) ∧
      ∀ a, started s = true → guardEntry s c.node c.number = some a → v = guarded s a c.value) ∧
    (∀ r rest, s.rlu.commands = [] → s.rlu.replies = r :: rest → ∃ u,
      insertFrame s = send (replyFrameOf (ownByte s) r) u ∧ u.rlu.replies = rest ∧ u.rlu.reports = s.rlu.reports ∧
      u.rlu.slot = s.rlu.slot) ∧
    (∀ r rest, s.rlu.commands = [] → s.rlu.replies = [] → s.rlu.reports = r :: rest → ∃ u,
      insertFrame s = send (reportFrameOf (ownByte s) r) u ∧ u.rlu.reports = rest ∧ u.rlu.slot = s.rlu.slot) ∧
    (∀ seg, s.rlu.commands = [] → s.rlu.replies = [] → s.rlu.reports = [] → s.rlu.slot = some seg →
      ∃ dst u, insertFrame s = offerTest (exhaustedTest (send (ticketFrameOf (ownByte s) dst seg) u)) ∧
        u.rlu.slot = none ∧ u.tku.credits = s.tku.credits - 1 ∧
        u.tku.queue = s.tku.queue.map (fun t => if t.serial = seg.serial then advanced t else t))

/-- A command posted for an actuator that waits already replaces the value in place; another joins the tail (R170). A reply or
report posted to a full queue is discarded and counted (R171). With a strap outside the node range nothing is queued (R165).
An occurrence raises its kind's count, which holds at 255, and sets its flag; one report is posted at a set transition of
an enabled kind with a report destination, with the count after the rise and the occurrence's context (R185). -/
def Obligations.PostingToTheQueuesAndOccurrences : Prop :=
  (∀ s : State,
    (strapOk s = true → ∀ c : Command,
      ((∀ d ∈ s.rlu.commands, commandActuator d ≠ commandActuator c) →
        (postCommand c s).rlu.commands = s.rlu.commands ++ [c]) ∧
      ∀ l d r, s.rlu.commands = l ++ d :: r → (∀ x ∈ l, commandActuator x ≠ commandActuator c) →
        commandActuator d = commandActuator c → (postCommand c s).rlu.commands = l ++ c :: r) ∧
    (strapOk s = true → ∀ r : Reply,
      (s.rlu.replies.length < 8 → (postReply r s).rlu.replies = s.rlu.replies ++ [r]) ∧
      (8 ≤ s.rlu.replies.length → (postReply r s).rlu.replies = s.rlu.replies ∧
        (postReply r s).rlu.counts.repliesDiscarded = min (s.rlu.counts.repliesDiscarded + 1) 4294967295)) ∧
    (strapOk s = true → ∀ r : Report,
      (s.rlu.reports.length < 8 → (postReport r s).rlu.reports = s.rlu.reports ++ [r]) ∧
      (8 ≤ s.rlu.reports.length → (postReport r s).rlu.reports = s.rlu.reports ∧
        (postReport r s).rlu.counts.reportsDiscarded = min (s.rlu.counts.reportsDiscarded + 1) 4294967295)) ∧
    (strapOk s = false → (∀ c, postCommand c s = s) ∧ (∀ r, postReply r s = s) ∧ ∀ r, postReport r s = s)) ∧
  (∀ (kind : EventKind) (ctx : Context) (s : State),
    let e := s.mgu.events.get (EventKind.index kind)
    let t := postEvent kind ctx s
    t.mgu.events.get (EventKind.index kind) = ⟨true, e.enable, min 255 (e.count + 1)⟩ ∧
    (∀ i, i ≠ EventKind.index kind → t.mgu.events.get i = s.mgu.events.get i) ∧
    ((e.flag = true ∨ e.enable = false ∨ s.mgu.reportDest = none) → t.rlu = s.rlu) ∧
    (e.flag = false → e.enable = true → ∀ d, s.mgu.reportDest = some d →
      t.rlu = (postReport ⟨d, kind, min 255 (e.count + 1), ctx⟩ s).rlu))

/-- A RESTART frame to 127 or to the device empties the link, is forwarded, and brings the restarts of the TKU, the SMN and the
RCT, in an order the spec leaves open (R176, R18, R88, R149, logs 4 and 14). A RESTART for another node is forwarded (R166). That
its payload may have any length is the model's choice (log 13), and so is that with a strap outside the node range one to 127
brings no restart (log 11), and that every valid channel is UNSEEN before the first notice (log 27). Each channel that leaves LIVE,
STALE or FAULT has one state notice. An idle port B makes its choice when the command has had its
effect (log 9). -/
def Obligations.RestartFramesBringTheRingRestart : Prop :=
  (∀ (f : Frame) (s : State), kindIs f 8 = true → fromOwn s f = false →
    (bringsRestart s f = false → exec (.restart f) s = .next (startPortB (forward f (taken s)))) ∧
    (bringsRestart s f = true → ∃ (order : List RestartBlock) (u : State), order.Perm [.tku, .smn, .rct] ∧
      exec (.restart f) s = .next (startPortB (order.foldl restartBlock u)) ∧
      u.rlu.passBuffer = [f] ∧ u.rlu.commands = [] ∧ u.rlu.replies = [] ∧ u.rlu.reports = [] ∧ u.rlu.slot = none ∧
      u.rlu.starvation = 0 ∧ u.rlu.portB = s.rlu.portB ∧
      u.rlu.counts.restartsTaken = min (s.rlu.counts.restartsTaken + 1) 4294967295 ∧
      SameBooks s u ∧ u.channels = s.channels ∧ u.actuators = s.actuators ∧ u.rct = s.rct ∧ u.tku = s.tku ∧ u.mgu = s.mgu)) ∧
  ∀ s : State,
    restartBlock s .tku = restartTickets s ∧ restartBlock s .smn = restartChannels s ∧ restartBlock s .rct = restartRecipes s ∧
    ((restartTickets s).tku.credits = 0 ∧ (restartTickets s).tku.waitList = s.tku.waitList ∧
      (restartTickets s).tku.run = s.tku.run ∧
      (restartTickets s).tku.queue = s.tku.queue.map (fun t => { t with state := .sendable, next := 0 }) ∧
      (restartTickets s).tku.exhausted = (s.tku.run && !s.tku.queue.isEmpty)) ∧
    (restartRecipes s).rct = { s.rct with staging := none } ∧
    ∃ (u : State) (ns : List Notice), restartChannels s = deliverAll ns u ∧
      (∀ i, u.channels.get i = if (s.channels.get i).valid then
        { s.channels.get i with state := .unseen, staleDeadline := none } else s.channels.get i) ∧
      (∀ n ∈ ns, ∃ i : Fin 64, (s.channels.get i).valid = true ∧ (s.channels.get i).state ≠ .unseen ∧
        n = ⟨i.val, false, 0, false, false, s.clock, (s.channels.get i).state, .unseen⟩) ∧
      (ns.map (·.channel)).Nodup ∧
      ∀ i : Fin 64, (s.channels.get i).valid = true → (s.channels.get i).state ≠ .unseen → ∃ n ∈ ns, n.channel = i.val

/-! ### Deadlines -/

/-- A deadline row taken when its deadline is absent or not reached has no effect. That is the model's choice (log 2): the
spec's deadlines come about only at their time.
What the simple deadlines do when they are reached: the silence of port A (R172), a second of the time of day (R184), the
overdry deadline of a kiln in ENDPOINT (R76), and the overrun deadline of the grant record (R98). That the silence must exceed the
timeout, so strictly, is the model's choice (log 20). An idle port B makes its choice when the command has had its
effect (log 9). When a deadline is reached is counted modulo 2^32 (log 3). -/
def Obligations.DeadlinesWaitForTheirTimeAndPost : Prop :=
  (∀ s : State,
    (∀ c, staleDue s c = false → exec (.channelStaleDeadline c) s = .next s) ∧
    (transitHeadDue s = false → exec .transitEntryDue s = .next s) ∧
    (∀ k, evaluationDue s k = false → exec (.evaluationExpiry k) s = .next s) ∧
    (∀ k, overdryDue s k = false → exec (.overdryDeadline k) s = .next s) ∧
    (settleDue s = false → exec .unloadSettleDeadline s = .next s) ∧
    (overrunDue s = false → exec .unloadOverrunDeadline s = .next s) ∧
    (∀ n, restDueOf s n = false → exec (.layerRestDue n) s = .next s) ∧
    (pressDue s = false → exec .pressSettleDeadline s = .next s) ∧
    (silencePassed s = false → exec .ringIdleTimeout s = .next s) ∧
    (secondDue s = false → exec .timeOfDaySecond s = .next s)) ∧
  (∀ s : State,
    (∀ t, s.mgu.configValid = true → s.rlu.silence = false → s.rlu.silenceFrom = some t →
      s.mgu.config.idleTimeout < elapsed t s.clock → exec .ringIdleTimeout s =
        .next (startPortB (postEvent .ringIdle noContext (onRlu (fun b => { b with silence := true }) s)))) ∧
    (reached s.mgu.nextSecond s.clock = true → exec .timeOfDaySecond s =
      .next (startPortB (onMgu (fun m => { m with timeOfDay := m.timeOfDay + 1, nextSecond := m.nextSecond + 1000 }) s))) ∧
    (∀ k d, (s.kilns.get k).state = .endpoint → (s.kilns.get k).overdry = some d → reached d s.clock = true →
      exec (.overdryDeadline k) s = .next (startPortB (postEvent .overdry (kilnContext k)
        (modifyKiln k (fun kl => { kl with overdry := none }) s)))) ∧
    (∀ g d, s.uar.grant = some g → g.overrun = some d → reached d s.clock = true →
      exec .unloadOverrunDeadline s = .next (startPortB (postEvent .unloadOverrun (kilnContext g.kiln)
        (onUar (fun u => { u with grant := some { g with overrun := none } }) s)))))

/-! ### Channels (chapter 1) -/

/-- An accepted SAMPLE frame's entries are taken in order and the frame is forwarded (R6, R7); a frame whose entry count or length
is wrong has no entry that is read. That an entry's notice is acted on by every consumer before the next entry is taken is the
model's choice (log 5). Every accepted frame is read, also one that is then dropped for want of pass buffer room (R166, R167);
what R6 says of a frame lost for want of room is read of a frame lost before it is accepted here (log 36). An idle port B makes
its choice when the command has had its effect (log 9). -/
def Obligations.SampleFramesAreReadAndForwarded : Prop :=
  (∀ (f : Frame) (s : State), kindIs f 1 = true → fromOwn s f = false → exec (.sampleFrame f) s =
    .next (startPortB (forward f ((sampleEntries f.payload).foldl (takeEntry f.src.toNat) (taken s))))) ∧
  (∀ (es : List (List Byte)), 1 ≤ es.length → es.length ≤ 16 → (∀ e ∈ es, e.length = 5) →
    sampleEntries (BitVec.ofNat 8 es.length :: es.flatten) = es.map sampleEntry) ∧
  (∀ payload : List Byte, (field payload 0 1 = 0 ∨ 16 < field payload 0 1 ∨ payload.length ≠ 1 + 5 * field payload 0 1) →
    sampleEntries payload = []) ∧
  ∀ c x y z st : Byte, sampleEntry [c, x, y, z, st] =
    ⟨c.toNat, BitVec.toInt (x ++ y ++ z), st.getLsbD 0, st.getLsbD 1⟩

/-- A sample entry acts on the valid channel of its source node and source channel alone: a good arrival sets the held value by R8
and R9 and makes the channel LIVE (R11), a fault arrival makes it FAULT (R12).
A LIVE channel at its stale deadline becomes STALE with one CHANNEL-STALE and a state notice (R13, R16). A notice is acted on by
every consumer, in an order the spec leaves open, and notices of several channels likewise (R14, log 4). An idle port B makes
its choice when the command has had its effect (log 9). When a deadline is reached is counted modulo 2^32 (log 3). -/
def Obligations.SampleEntriesAndStaleChannels : Prop :=
  (∀ (source : Nat) (e : SampleEntry) (s : State),
    ((∀ i, (s.channels.get i).valid = true → (s.channels.get i).sourceNode = source →
        (s.channels.get i).sourceChannel ≠ e.channel) → takeEntry source s e = s) ∧
    ∀ i, matching s source e.channel = some i →
      let c := s.channels.get i
      let v := scaled e.raw c.gain c.offset
      (e.fault = false → ∃ held, takeEntry source s e =
          deliver ⟨i.val, true, held, decide (v < c.low ∨ c.high < v), e.settled, s.clock, c.state, .live⟩ (setChannel i { c with
            held := held, clamped := decide (v < c.low ∨ c.high < v), settled := e.settled, lastArrival := some s.clock,
            state := .live, staleDeadline := some (after s.clock (3 * (100 * 2 ^ c.exponent))) } s) ∧
        (v < c.low → held = c.low) ∧ (c.low ≤ v → c.high < v → held = c.high) ∧ (c.low ≤ v → v ≤ c.high → held = v)) ∧
      (e.fault = true → c.state = .fault → takeEntry source s e =
        setChannel i { c with lastArrival := some s.clock, staleDeadline := none } s) ∧
      (e.fault = true → c.state ≠ .fault → takeEntry source s e =
        deliver ⟨i.val, false, 0, false, false, s.clock, c.state, .fault⟩ (postEvent .channelFault (detailContext i.val)
          (setChannel i { c with lastArrival := some s.clock, staleDeadline := none, state := .fault } s)))) ∧
  ((∀ (i : Fin 64) (d : Time) (s : State), (s.channels.get i).state = .live → (s.channels.get i).staleDeadline = some d →
    reached d s.clock = true → exec (.channelStaleDeadline i) s =
      .next (startPortB (deliver ⟨i.val, false, 0, false, false, s.clock, .live, .stale⟩
        (postEvent .channelStale (detailContext i.val)
          (setChannel i { s.channels.get i with state := .stale, staleDeadline := none } s))))) ∧
  (∀ (n : Notice) (s : State), ∃ (order : List Consumer) (choices : List Nat),
    order.Perm [.itk, .kfr, .kc 0, .kc 1, .kc 2, .kc 3, .uar, .pru] ∧
    deliver n s = order.foldl (fun s c => consume n s c) { s with sched := choices }) ∧
  ∀ (ns : List Notice) (s : State), ∃ (order : List (Notice × Consumer)) (choices : List Nat),
    order.Perm (ns.flatMap (fun n => [.itk, .kfr, .kc 0, .kc 1, .kc 2, .kc 3, .uar, .pru].map (fun c => (n, c)))) ∧
    deliverAll ns s = order.foldl (fun s p => consume p.1 s p.2) { s with sched := choices })

/-- What the consumers do on a notice. The ITK integrates an arrival of the belt load channel (R33) and decides the feed permit
where an input of it may have changed (R38); the KFR makes the selection test or the low-room close where a kiln's eligibility
changes (R46, R47, R52); a kiln controller holds on a plenum arrival above ceiling plus margin with OVERTEMP (R78) and on a
plenum that leaves LIVE with PLENUM (R77).
What the UAR and the PRU do on a notice. The UAR posts its present conveyor command when a kiln's scale enters LIVE from UNSEEN
(R93), makes the settle test on the unloading kiln's scale (R95), and then the grant test on an arrival of the head kiln's scale
(R91); that order of the three is the model's choice (log 40), and so is that a setup entry that is not enabled names its scale
all the same (log 22). The PRU closes the bale at a settled arrival of the press scale in WEIGHING (R109) and decides the permit
on a notice of the press charge channel (R121). -/
def Obligations.NoticesActOnTheirConsumers : Prop :=
  ((∀ (n : Notice) (s : State),
    let belt := n.arrival = true ∧ s.mgu.configValid = true ∧ n.channel = s.mgu.config.beltLoad
    let moves (u : State) := (u.mgu.configValid = true ∧ n.before ≠ n.after ∧
        (n.channel = u.mgu.config.beltLoad ∨ n.channel = u.mgu.config.beltSpeed)) ∨
      (¬ (n.before = .live ↔ n.after = .live) ∧
        ∃ k, (setupOf u k).enabled = true ∧ (u.kilns.get k).state = .empty ∧ (setupOf u k).scale = n.channel)
    ∃ u : State, (belt → u = beltArrival n.channel n.value n.time s) ∧ (¬ belt → u = s) ∧
      (moves u → itkNotice n s = decideFeed u) ∧ (¬ moves u → itkNotice n s = u)) ∧
  (∀ (n : Notice) (s : State),
    let moves := ¬ (n.before = .live ↔ n.after = .live) ∧
      ∃ k, (setupOf s k).enabled = true ∧ (s.kilns.get k).state = .empty ∧ (setupOf s k).scale = n.channel
    (moves → n.after = .live → kfrNotice n s = selectKiln s) ∧ (moves → n.after ≠ .live → kfrNotice n s = lowRoomClose s) ∧
    (¬ moves → kfrNotice n s = s)) ∧
  ∀ (k : Fin 4) (n : Notice) (s : State),
    (n.channel ≠ (setupOf s k).plenum → kcNotice k n s = s) ∧
    (n.channel = (setupOf s k).plenum →
      (n.arrival = true → ((setupOf s k).ceiling + s.mgu.config.overtempMargin : Int) < n.value →
        kcNotice k n s = holdKiln k ⟨false, true, false⟩ s) ∧
      (n.arrival = true → n.value ≤ ((setupOf s k).ceiling + s.mgu.config.overtempMargin : Int) → kcNotice k n s = s) ∧
      (n.arrival = false → n.before = .live → kcNotice k n s = holdKiln k ⟨true, false, false⟩ s) ∧
      (n.arrival = false → n.before ≠ .live → kcNotice k n s = s))) ∧
  ((∀ (n : Notice) (s : State),
    let back := n.before = .unseen ∧ n.after = .live ∧ ∃ k, (setupOf s k).scale = n.channel
    let heads := n.arrival = true ∧ ∃ k rest, s.uar.requests = k :: rest ∧ (setupOf s k).scale = n.channel
    ∃ u v : State,
      (back → s.uar.grant = none → u = postConveyor 0 s) ∧ (back → s.uar.grant ≠ none → u = postConveyor 1000 s) ∧
      (¬ back → u = s) ∧
      (s.uar.grant = none → v = u) ∧
      (∀ g, s.uar.grant = some g → (setupOf s g.kiln).scale ≠ n.channel → v = u) ∧
      (∀ g, s.uar.grant = some g → (setupOf s g.kiln).scale = n.channel → ∃ d : Option Time,
        let low := (n.value - (loadOf s g.kiln).tare).toNat ≤ s.mgu.config.emptyThreshold
        v = onUar (fun b => { b with grant := some { g with settle := d } }) u ∧
        (n.arrival = true → low → g.settle = none → d = some (after n.time (1000 * s.mgu.config.unloadSettle))) ∧
        (n.arrival = true → low → g.settle ≠ none → d = g.settle) ∧ (n.arrival = true → ¬ low → d = none) ∧
        (n.arrival = false → n.before = .live → d = none) ∧ (n.arrival = false → n.before ≠ .live → d = g.settle)) ∧
      (heads → uarNotice n s = grantTest v) ∧ (¬ heads → uarNotice n s = v)) ∧
  ∀ (n : Notice) (s : State),
    let valid := s.mgu.configValid = true
    let closes := valid ∧ n.channel = s.mgu.config.pressScale ∧ n.arrival = true ∧ n.settled = true ∧ s.pru.state = .weighing
    let charges := valid ∧ n.channel = s.mgu.config.pressCharge ∧ (n.arrival = true ∨ n.before ≠ n.after)
    ∃ u : State, (closes → u = closeBale n.value.toNat false s) ∧ (¬ closes → u = s) ∧
      (charges → pruNotice n s = decidePress u) ∧ (¬ charges → pruNotice n s = u))

/-! ### Marks (sections 2.4, 5.3, 6.1) -/

/-- A mark in transparent mode, with an invalid CONFIG record, or from a node that the record does not name for it, is
forwarded and does nothing else (R26, R94, R106, R183).
A hook mark with no hook lot posts ORPHAN-HOOK with no lot; with a hook lot it counts one hook, holding at 65535. A HOOK ends
hooking when a target that is not 0 is reached, a HOOK-SHORT ends it always (R26, R27).
The press marks by the table of R106, with the times of R107 and the settle deadline of R109; the permit is decided again
at each move (R121). A mark that the table ignores is only forwarded. An idle port B makes its choice when the command has had its
effect (log 9). -/
def Obligations.HookAndPressMarks : Prop :=
  (∀ (f : Frame) (s : State), fromOwn s f = false →
    (MarkPassed s f (·.hookNode) →
      (marks f 1 = true → exec (.hook f) s = .next (startPortB (forward f (taken s)))) ∧
      (marks f 2 = true → exec (.hookShort f) s = .next (startPortB (forward f (taken s))))) ∧
    (MarkPassed s f (·.pressNode) →
      (marks f 3 = true → exec (.chargeStart f) s = .next (startPortB (forward f (taken s)))) ∧
      (marks f 4 = true → exec (.pressCycle f) s = .next (startPortB (forward f (taken s)))) ∧
      (marks f 5 = true → exec (.baleTied f) s = .next (startPortB (forward f (taken s))))) ∧
    (MarkPassed s f (·.unloadNode) →
      marks f 6 = true → exec (.unloadDone f) s = .next (startPortB (forward f (taken s))))) ∧
  (∀ (f : Frame) (s : State), MarkTaken s f (·.hookNode) →
    (s.itk.hookLot = none →
      (marks f 1 = true → exec (.hook f) s =
        .next (startPortB (forward f (postEvent .orphanHook (lotContext none) (taken s))))) ∧
      (marks f 2 = true → exec (.hookShort f) s =
        .next (startPortB (forward f (postEvent .orphanHook (lotContext none) (taken s)))))) ∧
    ∀ slot l, s.itk.hookLot = some slot → lotAt s slot = some l →
      let counted := setLot slot (some { l with hooks := min (l.hooks + 1) 65535 }) (taken s)
      (marks f 2 = true → exec (.hookShort f) s = .next (startPortB (forward f (endHooking slot counted)))) ∧
      (marks f 1 = true →
        (l.hookTarget ≠ 0 → min (l.hooks + 1) 65535 = l.hookTarget →
          exec (.hook f) s = .next (startPortB (forward f (endHooking slot counted)))) ∧
        ((l.hookTarget = 0 ∨ min (l.hooks + 1) 65535 ≠ l.hookTarget) →
          exec (.hook f) s = .next (startPortB (forward f counted))))) ∧
  (∀ (f : Frame) (s : State), MarkTaken s f (·.pressNode) →
    (marks f 3 = true →
      (s.pru.state = .idle → exec (.chargeStart f) s = .next (startPortB (forward f (decidePress
        (onPru (fun p => { p with state := .charging, chargeStart := some s.clock }) (taken s)))))) ∧
      (s.pru.state ≠ .idle → exec (.chargeStart f) s = .next (startPortB (forward f (taken s))))) ∧
    (marks f 4 = true →
      (s.pru.state = .charging → exec (.pressCycle f) s = .next (startPortB (forward f (decidePress
        (onPru (fun p => { p with state := .pressing }) (taken s)))))) ∧
      (s.pru.state ≠ .charging → exec (.pressCycle f) s = .next (startPortB (forward f (taken s))))) ∧
    (marks f 5 = true →
      (s.pru.state = .pressing → exec (.baleTied f) s = .next (startPortB (forward f (decidePress
        (onPru (fun p => { p with
          state := .weighing, tie := some s.clock
          settle := some (after s.clock (1000 * s.mgu.config.settleLimit)) }) (taken s)))))) ∧
      (s.pru.state ≠ .pressing → exec (.baleTied f) s = .next (startPortB (forward f (taken s))))))

/-! ### Intake (chapter 2) -/

/-- The hooking start test (R25): in started mode with no hook lot and a lot queued, the head becomes the hook lot, HOOKING, its
transit entry is appended, a pending boundary discarded, and the KFR makes its selection test (R47); with four entries listed
the start is deferred, with one TRANSIT-FULL where neither was held before (R32).
The end of hooking (R29): the lot goes IN-TRANSIT with its hooking-end time and there is no hook lot. With a lot queued the
hooking start test follows; with none a boundary entry is appended, or held when four entries are listed, with one TRANSIT-FULL
where neither was held before (R32). That the feed permit is decided once more after it is the model's choice (log 15). -/
def Obligations.HookingStartsAndEnds : Prop :=
  (∀ s : State,
    ((started s = false ∨ s.itk.hookLot ≠ none ∨ s.itk.queue = []) → hookingTest s = s) ∧
    ∀ slot rest, started s = true → s.itk.hookLot = none → s.itk.queue = slot :: rest → ∀ l, lotAt s slot = some l →
      let deferred := onItk (fun b => { b with deferred := true }) s
      (s.itk.transit.length < 4 → hookingTest s = selectKiln (onItk (fun b => { b with
        lots := b.lots.set slot (some { l with state := .hooking }), queue := rest, hookLot := some slot, deferred := false
        boundary := false, transit := b.transit ++ [⟨some slot, after s.clock (1000 * s.mgu.config.transitDelay)⟩] }) s)) ∧
      (4 ≤ s.itk.transit.length → (s.itk.deferred = true ∨ s.itk.boundary = true) → hookingTest s = deferred) ∧
      (4 ≤ s.itk.transit.length → s.itk.deferred = false → s.itk.boundary = false →
        hookingTest s = postEvent .transitFull ⟨none, some l.number, none, none⟩ deferred)) ∧
  (∀ (slot : Fin 32) (l : Lot) (s : State), lotAt s slot = some l →
    let ended := onItk (fun b => { b with hookLot := none }) (setLot slot (some { l with
      state := .inTransit
      hookEndTime := validTime s
      flags := { l.flags with untimed := l.flags.untimed || (validTime s).isNone } }) s)
    let held := onItk (fun b => { b with boundary := true }) ended
    (s.itk.queue ≠ [] → endHooking slot s = decideFeed (hookingTest ended)) ∧
    (s.itk.queue = [] →
      (s.itk.transit.length < 4 → endHooking slot s = decideFeed (onItk (fun b => { b with
        transit := b.transit ++ [⟨none, after s.clock (1000 * s.mgu.config.transitDelay)⟩] }) ended)) ∧
      (4 ≤ s.itk.transit.length → (s.itk.deferred = true ∨ s.itk.boundary = true) → endHooking slot s = decideFeed held) ∧
      (4 ≤ s.itk.transit.length → s.itk.deferred = false → s.itk.boundary = false →
        endHooking slot s = decideFeed (postEvent .transitFull ⟨none, none, none, none⟩ held))))

/-- The transit list's head falls due (R31): the entry leaves the list, the old weigh lot goes IN-PROCESS with its completion test
(R40), the residue is discarded (R36), the entry's lot is the weigh lot and the KFR makes its selection test (R47), a pending
boundary is appended, and the hooking start test follows. The list is then the rest, with the boundary and the entry of a lot
that starts. That the feed permit is decided once more after it is the model's choice (log 15). An idle port B makes its choice
when the command has had its effect (log 9). When a deadline is reached is counted modulo 2^32 (log 3). -/
def Obligations.TransitEntryMakesTheWeighLot : Prop :=
  ∀ (e : TransitEntry) (rest : List TransitEntry) (s : State), s.itk.transit = e :: rest → reached e.due s.clock = true →
    let left := onItk (fun b => { b with transit := rest }) s
    let entry (lot : Option (Fin 32)) : TransitEntry := ⟨lot, after s.clock (1000 * s.mgu.config.transitDelay)⟩
    ∃ t u v w : State,
      (s.itk.weighLot = none → u = left) ∧
      (∀ i l, s.itk.weighLot = some i → lotAt s i = some l →
        u = completionTest i (setLot i (some { l with state := .inProcess }) left)) ∧
      let entered := onItk (fun b => { b with accumulator := 0, weighLot := e.lot }) u
      (e.lot = none → v = entered) ∧ (e.lot ≠ none → v = selectKiln entered) ∧
      (s.itk.boundary = false → w = v) ∧
      (s.itk.boundary = true → w = onItk (fun b => { b with boundary := false, transit := b.transit ++ [entry none] }) v) ∧
      t = decideFeed (hookingTest w) ∧ exec .transitEntryDue s = .next (startPortB t) ∧
      t.itk.weighLot = e.lot ∧ t.itk.accumulator = 0 ∧ t.itk.boundary = false ∧
      let listed := if s.itk.boundary then rest ++ [entry none] else rest
      ((started s = false ∨ s.itk.hookLot ≠ none ∨ s.itk.queue = [] ∨ 4 ≤ listed.length) → t.itk.transit = listed) ∧
      ∀ i q, started s = true → s.itk.hookLot = none → s.itk.queue = i :: q → listed.length < 4 →
        t.itk.transit = listed ++ [entry (some i)] ∧ t.itk.hookLot = some i ∧ t.itk.queue = q

/-- The feed permit and its hold cause, by the first case of the table of R37 that holds.
The permit decided again is stored with its cause; FEED-HOLD is posted when it enters HOLD from GO or SLOW (R38), and the
DIVERTER command when it leaves HOLD with a diverter kiln (R48). -/
def Obligations.FeedPermitByItsTable : Prop :=
  (∀ s : State,
    let belt := configLive s s.mgu.config.beltLoad && configLive s s.mgu.config.beltSpeed
    let q := s.mgu.config.feedQuantum
    (started s = false → feedDecision s = (.hold, some .notStarted)) ∧
    (started s = true → s.itk.hookLot = none → feedDecision s = (.hold, some .noHookLot)) ∧
    (started s = true → s.itk.hookLot ≠ none → belt = false → feedDecision s = (.hold, some .beltChannel)) ∧
    (started s = true → s.itk.hookLot ≠ none → belt = true →
      (fillingKiln s = none → anyEligible s = false → feedDecision s = (.hold, some .noKiln)) ∧
      (fillingKiln s = none → anyEligible s = true → feedDecision s = (.go, none)) ∧
      ∀ k, fillingKiln s = some k →
        (anyEligible s = true → feedDecision s = (.go, none)) ∧
        (anyEligible s = false → roomOf s k < q → feedDecision s = (.hold, some .noRoom)) ∧
        (anyEligible s = false → q ≤ roomOf s k → 2 * q ≤ roomOf s k → feedDecision s = (.go, none)) ∧
        (anyEligible s = false → q ≤ roomOf s k → roomOf s k < 2 * q → feedDecision s = (.slow, none)))) ∧
  (∀ s : State,
    let d := feedDecision s
    let stored := onItk (fun b => { b with permit := d.1, cause := d.2 }) s
    (d.1 = .hold → s.itk.permit = .hold → decideFeed s = stored) ∧
    (d.1 = .hold → s.itk.permit ≠ .hold → decideFeed s = postEvent .feedHold (lotContext (hookOrHead s)) stored) ∧
    (d.1 ≠ .hold → s.itk.permit ≠ .hold → decideFeed s = stored) ∧
    (d.1 ≠ .hold → s.itk.permit = .hold → (s.kfr.diverter = none ∨ actuatorFor s .diverter = none) → decideFeed s = stored) ∧
    ∀ k a, d.1 ≠ .hold → s.itk.permit = .hold → s.kfr.diverter = some k → actuatorFor s .diverter = some a →
      decideFeed s = postCommand ⟨a.node, a.number, k.val⟩ stored)

/-- A belt arrival forms its interval, 0 for the first and at most twice the load channel's expected period, and sets GAP on the
weigh lot when the interval is capped or the speed channel is not LIVE (R33, R35). The increment, the load within 0 to 60,000
and the speed at most 5,000, is added to the accumulator, whole grams are carried out, and the residue stays below a gram (R34,
R151, R152). A negative speed changes no accumulator, and one BELT-REVERSE is posted for each reversal, with the weigh lot's
number (R35). -/
def Obligations.BeltIncrementIsCarriedInGrams : Prop :=
  (∀ (c : Fin 64) (value : Int) (now : Time) (s : State),
    let cap := 200 * 2 ^ (s.channels.get c).exponent
    let speedLive := isLive s s.mgu.config.beltSpeed = true
    let noted := onItk (fun b => { b with prevBelt := some now }) s
    ∃ (interval load : Nat) (u : State),
      (s.itk.prevBelt = none → interval = 0) ∧ (∀ t, s.itk.prevBelt = some t → interval = (now - t).toNat) ∧
      load = (max 0 (min value 60000)).toNat ∧
      beltArrival c.val value now s = beltIncrease load (min interval cap) u ∧
      (s.itk.weighLot = none → u = noted) ∧ (interval ≤ cap → speedLive → u = noted) ∧
      ∀ w l, s.itk.weighLot = some w → lotAt s w = some l → (cap < interval ∨ ¬ speedLive) →
        u = setLot w (some { l with flags := { l.flags with gap := true } }) noted) ∧
  ∀ (load dt : Nat) (s : State),
    let v := heldValue s s.mgu.config.beltSpeed
    let sum := s.itk.accumulator + min load 60000 * min v.toNat 5000 * dt
    (0 ≤ v → beltIncrease load dt s =
      carryGrams (sum / 1000000) (onItk (fun b => { b with accumulator := sum % 1000000, reversing := false }) s)) ∧
    (v < 0 → s.itk.reversing = true → beltIncrease load dt s = s) ∧
    (v < 0 → s.itk.reversing = false →
      let reversed := onItk (fun b => { b with reversing := true }) s
      (s.itk.weighLot = none → beltIncrease load dt s = postEvent .beltReverse ⟨none, none, none, none⟩ reversed) ∧
      ∀ w l, s.itk.weighLot = some w → lotAt s w = some l →
        beltIncrease load dt s = postEvent .beltReverse ⟨none, some l.number, none, none⟩ reversed) ∧
    (∀ grams, s.itk.weighLot = none → carryGrams grams s = s) ∧
    carryGrams 0 s = s ∧
    ∀ grams w l, s.itk.weighLot = some w → lotAt s w = some l → 0 < grams →
      carryGrams grams s = placeCarry w grams (setLot w (some { l with greenFed := min (l.greenFed + grams) 4294967295 }) s)

/-! ### Filling (chapter 3) -/

/-- The selection test (R47): with a hook or weigh lot, in started mode, no kiln FILLING and some kiln eligible, the lowest
eligible kiln gets a new load record with the next serial and the scale's held value as tare, and becomes FILLING and the
diverter kiln, and the DIVERTER command with its index is posted (R48). Otherwise nothing changes. -/
def Obligations.SelectionTakesTheLowestEligibleKiln : Prop :=
  ∀ s : State,
    ((started s = false ∨ fillingKiln s ≠ none ∨ (s.itk.hookLot = none ∧ s.itk.weighLot = none) ∨
      (∀ k, eligible s k = false)) → selectKiln s = s) ∧
    ∀ k, started s = true → fillingKiln s = none → (s.itk.hookLot ≠ none ∨ s.itk.weighLot ≠ none) → eligible s k = true →
      (∀ j, j < k → eligible s j = false) →
      let t := selectKiln s
      let tare := (heldValue s (setupOf s k).scale).toNat
      let u := onKfr (fun b => { b with diverter := some k }) (decideFeed (modifyKiln k (fun kl => { kl with state := .filling })
        (onKfr (fun b => { b with
          loads := b.loads.set k ⟨some b.nextSerial, [], tare, false⟩, nextSerial := nextInSequence 65535 b.nextSerial }) s)))
      (actuatorFor s .diverter = none → t = u) ∧
      (∀ a, actuatorFor s .diverter = some a → t = postCommand ⟨a.node, a.number, k.val⟩ u) ∧
      (t.kilns.get k).state = .filling ∧ (∀ j, j ≠ k → t.kilns.get j = s.kilns.get j) ∧
      t.kfr.loads.get k = ⟨some s.kfr.nextSerial, [], tare, false⟩ ∧
      (∀ j, j ≠ k → t.kfr.loads.get j = s.kfr.loads.get j) ∧
      t.kfr.diverter = some k ∧ t.kfr.nextSerial = nextInSequence 65535 s.kfr.nextSerial ∧
      t.itk = { s.itk with permit := t.itk.permit, cause := t.itk.cause } ∧ t.cfl = s.cfl ∧ t.uar = s.uar ∧ t.pru = s.pru

/-- A carry is placed by the state of the diverter kiln and its load (R50), a spilled one with one SPILL occurrence for each run
on a lot (R51). -/
def Obligations.CarriesArePlacedByTheDiverterKiln : Prop :=
  ∀ (slot : Fin 32) (l : Lot) (grams n : Nat) (s : State),
    (s.kfr.diverter = none → placeByTable (n + 1) slot l grams s = spillCarry slot l grams s) ∧
    (∀ k, s.kfr.diverter = some k →
      ((s.kilns.get k).state ≠ .filling → (s.kilns.get k).state ≠ .loaded →
        placeByTable (n + 1) slot l grams s = spillCarry slot l grams s) ∧
      ((s.kilns.get k).state = .filling →
        (holdsContribution (loadOf s k) slot = true →
          placeByTable (n + 1) slot l grams s = creditFilling k (growContribution slot grams) s) ∧
        (holdsContribution (loadOf s k) slot = false → (loadOf s k).contributions.length < 6 →
          placeByTable (n + 1) slot l grams s = creditFilling k (addContribution slot l grams) s) ∧
        (holdsContribution (loadOf s k) slot = false → 6 ≤ (loadOf s k).contributions.length →
          placeByTable (n + 1) slot l grams s = placeByTable n slot l grams (enterLoaded k s))) ∧
      ((s.kilns.get k).state = .loaded →
        (holdsContribution (loadOf s k) slot = true →
          placeByTable (n + 1) slot l grams s = creditLoad k (growContribution slot grams) s) ∧
        (holdsContribution (loadOf s k) slot = false → (loadOf s k).contributions.length < 6 →
          placeByTable (n + 1) slot l grams s =
            updateLot slot (fun r => { r with kilnRefs := r.kilnRefs + 1 }) (creditLoad k (addContribution slot l grams) s)) ∧
        (holdsContribution (loadOf s k) slot = false → 6 ≤ (loadOf s k).contributions.length →
          placeByTable (n + 1) slot l grams s = spillCarry slot l grams s))) ∧
    (∀ (k : Fin 4), (creditLoad k (addContribution slot l grams) s).kfr.loads.get k =
      { loadOf s k with contributions := (loadOf s k).contributions ++
        [⟨some slot, l.number, min grams 4294967295, l.greenMoisture,
          min grams 4294967295 * (1000 - l.greenMoisture) / 1000⟩] }) ∧
    spillCarry slot l grams s = onKfr (fun b => { b with spillRun := some (slot, l.number) })
      (if (s.kfr.spillRun.map Prod.fst) = some slot then updateLot slot (addSpill grams) s
        else postEvent .spill ⟨s.kfr.diverter.map (·.val), some l.number, none, none⟩ (updateLot slot (addSpill grams) s))

/-! ### Requests (chapter 10) -/

/-- The checks of R179 in their order, for every request row: a source that no node has is discarded, a bad form is MALFORMED, a
class that may not make the request is NOT-PERMITTED (R180, R181), a job request before START is NOT-STARTED, and a request that
passes is answered by its owner. A request that names none is MALFORMED, and one too short for a tag is discarded. A request not
for the device is forwarded (R166). What decides who may write the channel table (R5), the CONFIG record and the node-class
table (R181). That a write of the recipe table or the bale log needs only its table code, first index and count for a good form
is the model's choice (log 18), and so is that a CONFIG write of several records is classed by its first (log 43). An idle port
B makes its choice when the command has had its effect (log 9). -/
def Obligations.RequestsAreCheckedInOrder : Prop :=
  (∀ r ∈ requestRows, ∀ (f : Frame) (s : State), r.ofRow f = true →
    (fromOwn s f = false → toOwn s f = false → exec (r.row f) s = .next (startPortB (forward f (taken s)))) ∧
    (fromOwn s f = false → toOwn s f = true → (f.src = 0 ∨ 126 < f.src.toNat) →
      exec (r.row f) s = .next (startPortB (asked s))) ∧
    (Asked s f →
      let c := classOf s f.src.toNat
      (r.form f = false → exec (r.row f) s = .next (answered f (refusal .malformed) (asked s))) ∧
      (r.form f = true → r.may f s c = false → exec (r.row f) s = .next (answered f (refusal .notPermitted) (asked s))) ∧
      (r.form f = true → r.may f s c = true → r.job = true → started s = false →
        exec (r.row f) s = .next (answered f (refusal .notStarted) (asked s))) ∧
      (r.form f = true → r.may f s c = true → (r.job = true → started s = true) →
        ∃ a u, exec (r.row f) s = .next (answered f a u)))) ∧
  (∀ (f : Frame) (s : State), asksNothing f = true → fromOwn s f = false →
    (toOwn s f = false → exec (.requestUndefined f) s = .next (startPortB (forward f (taken s)))) ∧
    (toOwn s f = true → (f.src = 0 ∨ 126 < f.src.toNat) → exec (.requestUndefined f) s = .next (startPortB (asked s)))) ∧
  (∀ (f : Frame) (s : State), Asked s f → asksNothing f = true →
    (f.payload.length < 3 → exec (.requestUndefined f) s = .next (startPortB (asked s))) ∧
    (3 ≤ f.payload.length → exec (.requestUndefined f) s = .next (answered f (refusal .malformed) (asked s)))) ∧
  (∀ (f : Frame) (s : State) (c : NodeClass),
    let weighed (i : Nat) := InWindow f i ∧ (field (entryFor f 19 i) 3 1 = 2 ∨ field (entryFor f 19 i) 3 1 = 3)
    let held (i : Fin 64) := InWindow f i ∧ ((s.channels.get i).kind = .mass ∨ (s.channels.get i).kind = .load)
    let settles := s.mgu.configValid = true ∧ ((carriedConfig f).reference ≠ s.mgu.config.reference ∨
      (carriedConfig f).baleTolerance ≠ s.mgu.config.baleTolerance ∨ (carriedConfig f).mismatch ≠ s.mgu.config.mismatch)
    (((∃ i, weighed i) ∨ ∃ i, held i) → (mayWriteChannels f s c = true ↔ c = .weighmaster)) ∧
    ((¬ ∃ i, weighed i) → (¬ ∃ i, held i) → (mayWriteChannels f s c = true ↔ c ≠ .viewer)) ∧
    (settles → (mayWriteConfig f s c = true ↔ c = .weighmaster)) ∧
    (¬ settles → (mayWriteConfig f s c = true ↔ c ≠ .viewer)) ∧
    (mayWriteClasses s c = true ↔ started s = false ∨ c = .weighmaster)) ∧
  ∀ (s : State) (n : Nat),
    ((∀ e ∈ s.mgu.nodeClasses.cells, e.valid = true → Nat.land n e.mask ≠ Nat.land e.address e.mask) →
      classOf s n = .viewer) ∧
    ∀ l e r, s.mgu.nodeClasses.cells = l ++ e :: r → e.valid = true → Nat.land n e.mask = Nat.land e.address e.mask →
      (∀ d ∈ l, d.valid = true → Nat.land n d.mask ≠ Nat.land d.address d.mask) →
      classOf s n = if e.weighmaster then .weighmaster else .operator

/-- A TABLE-READ within its table returns the entries from the first index upward, as many whole ones as fit in 240 bytes with
the five header bytes of the reply, with the first index and their number; outside it is OUT-OF-RANGE (R182).
A STATUS-READ returns the part asked for of the view as it stands when the request is taken; a key that names nothing is
NOT-FOUND, a part beyond the view's parts OUT-OF-RANGE (R187). How many bytes a view takes is open (log 8). That a key sent
with a view of no key is ignored is the model's choice (log 25), and so is that the ticket view shows the masses as they were built,
in tenths of a kilogram (log 47). An idle port B makes its choice when the command has had its
effect (log 9). -/
def Obligations.TableAndStatusReads : Prop :=
  (∀ r ∈ tableReadRows, ∀ (f : Frame) (s : State), Asked s f → asksOf f 1 r.code = true → argsLength f 3 = true →
    let first := arg f 1 1
    let count := arg f 2 1
    count ≠ 0 →
    ((first < r.lo ∨ r.hi < first + count - 1) →
      exec (r.row f) s = .next (answered f (refusal .outOfRange) (asked s))) ∧
    (r.lo ≤ first → first + count - 1 ≤ r.hi → ∃ es rest, ((r.entries s).drop (first - r.lo)).take count = es ++ rest ∧
      exec (r.row f) s =
        .next (answered f ⟨.done, .bytes (beBytes 1 first ++ beBytes 1 es.length ++ es.flatten)⟩ (asked s)) ∧
      es.flatten.length ≤ 235 ∧ ∀ e ∈ rest.head?, 235 < es.flatten.length + e.length)) ∧
  (∀ r ∈ statusReadRows, ∀ (f : Frame) (s : State), Asked s f → asksOf f 3 r.code = true → argsLength f 4 = true →
    let part := arg f 3 1
    (r.view f (asked s) = none → exec (r.row f) s = .next (answered f (refusal .notFound) (asked s))) ∧
    ∀ v, r.view f (asked s) = some v →
      ((part = 0 ∨ part < viewParts v) →
        exec (r.row f) s = .next (answered f ⟨.done, .viewPart part (viewParts v) v⟩ (asked s))) ∧
      (part ≠ 0 → viewParts v ≤ part → exec (r.row f) s = .next (answered f (refusal .outOfRange) (asked s))))

/-- The frame rule of the commands that touch the ring link alone: reads, refused requests, forwarded, dropped and removed
frames, the frame boundary, the silence of port A, and the credits and rewinds of tickets change no book, table, or ticket's
contents, and an EVENT-ENABLE or EVENT-CLEAR changes no book. A TABLE-READ or STATUS-READ changes nothing but the link. -/
def Obligations.LinkCommandsLeaveTheBooks : Prop :=
  (∀ row ∈ linkRows, ∀ (f : Frame) (s t : State), exec (row f) s = .next t → LinkOnly s t) ∧
  (∀ (wire : List Byte) (s t : State), exec (.badFrame wire) s = .next t → LinkOnly s t) ∧
  (∀ s t : State, exec .frameBoundary s = .next t → LinkOnly s t) ∧
  (∀ s t : State, exec .ringIdleTimeout s = .next t → LinkOnly s t) ∧
  ∀ (f : Frame) (s t : State), exec (.eventEnable f) s = .next t ∨ exec (.eventClear f) s = .next t →
    SameBooks s t ∧ t.channels = s.channels ∧ t.actuators = s.actuators ∧ t.rct = s.rct ∧ SameTickets s t ∧
    t.mgu.mode = s.mgu.mode ∧ t.mgu.config = s.mgu.config ∧ t.mgu.nodeClasses = s.mgu.nodeClasses

/-! ### Table writes (R3 to R5, R45, R170, R173, R182, R183) -/

/-- A TABLE-WRITE whose window leaves its table is OUT-OF-RANGE, for each table; one of the recipe table or the bale log within it
is REFUSED-STATE (R182, R122). Node-class entries that name no class are OUT-OF-RANGE, and good ones are replaced whole. That an
address or mask above 127 or a yes-or-no byte above 1 is refused too is the model's choice (logs 16 and 17), and so is that a
recipe table or bale log write needs only its table code, first index and count, and is judged by its window first (log 18). An
idle port B makes its choice when the command has had its effect (log 9). -/
def Obligations.TableWritesKeepToTheirWindows : Prop :=
  ∀ (f : Frame) (s : State), Asked s f →
    let c := classOf s f.src.toNat
    (∀ p ∈ tableWriteRows.zip writeIndices, p.1.ofRow f = true → p.1.form f = true → p.1.may f s c = true →
      (arg f 1 1 < p.2.1 ∨ p.2.2 + 1 < arg f 1 1 + arg f 2 1) →
      exec (p.1.row f) s = .next (answered f (refusal .outOfRange) (asked s))) ∧
    (isOperator c = true → headForm f = true →
      (asksOf f 2 6 = true → 1 ≤ arg f 1 1 → arg f 1 1 + arg f 2 1 ≤ 9 →
        exec (.tableWriteRecipe f) s = .next (answered f (refusal .refusedState) (asked s))) ∧
      (asksOf f 2 7 = true → arg f 1 1 + arg f 2 1 ≤ 96 →
        exec (.tableWriteBaleLog f) s = .next (answered f (refusal .refusedState) (asked s)))) ∧
    (asksOf f 2 3 = true → writeForm f 4 = true → (started s = false ∨ c = .weighmaster) → arg f 1 1 + arg f 2 1 ≤ 16 →
      let bad (e : List Byte) := 1 < field e 0 1 ∨ 127 < field e 1 1 ∨ 127 < field e 2 1 ∨ ¬ (field e 3 1 = 1 ∨ field e 3 1 = 2)
      ((∃ i, InWindow f i ∧ bad (entryFor f 4 i)) →
        exec (.tableWriteNodeClass f) s = .next (answered f (refusal .outOfRange) (asked s))) ∧
      ((∀ i, InWindow f i → ¬ bad (entryFor f 4 i)) → ∃ t : Tab NodeClassEntry 16,
        exec (.tableWriteNodeClass f) s = .next (answered f (done []) (onMgu (fun m => { m with nodeClasses := t }) (asked s))) ∧
        (∀ i : Fin 16, ¬ InWindow f i → t.get i = s.mgu.nodeClasses.get i) ∧
        ∀ i : Fin 16, InWindow f i → let e := entryFor f 4 i
          t.get i = ⟨field e 0 1 = 1, field e 1 1, field e 2 1, field e 3 1 = 2⟩))

/-- A channel table write: the range checks of R3 refuse it whole, then the duplicate check of R2; an accepted one has limits and
exponent clamped, the status parts reset (R4), and one state notice for each entry that leaves LIVE, STALE or FAULT. That the
notices follow the whole replacement, in an open order, is the model's choice (logs 4 and 27), and so is that a valid byte above
1 is out of range (log 16). An idle port B makes its choice when the command has had its effect (log 9). -/
def Obligations.ChannelWritesAreCheckedAndTaken : Prop :=
  ∀ (f : Frame) (s : State), Asked s f → asksOf f 2 1 = true → writeForm f 19 = true →
    mayWriteChannels f s (classOf s f.src.toNat) = true → arg f 1 1 + arg f 2 1 ≤ 64 →
    let entry (i : Nat) := entryFor f 19 i
    let kind (i : Nat) := (ChannelKind.ofCode (field (entry i) 3 1)).getD .generic
    let low (i : Nat) := clampInt (kindRange (kind i)).1 (kindRange (kind i)).2 (fieldInt (entry i) 11 4)
    let high (i : Nat) := clampInt (kindRange (kind i)).1 (kindRange (kind i)).2 (fieldInt (entry i) 15 4)
    let bad (i : Nat) := 1 < field (entry i) 0 1 ∨ field (entry i) 1 1 = 0 ∨ 126 < field (entry i) 1 1 ∨
      15 < field (entry i) 2 1 ∨ 5 < field (entry i) 3 1 ∨ high i < low i
    ((∃ i, InWindow f i ∧ bad i) → exec (.tableWriteChannel f) s = .next (answered f (refusal .outOfRange) (asked s))) ∧
    ((∀ i, InWindow f i → ¬ bad i) → ∀ t : Tab Channel 64,
      (∀ i : Fin 64, ¬ InWindow f i → t.get i = s.channels.get i) →
      (∀ i : Fin 64, InWindow f i → t.get i =
        ⟨field (entry i) 0 1 = 1, field (entry i) 1 1, field (entry i) 2 1, kind i, fieldInt (entry i) 4 2,
          fieldInt (entry i) 6 4, min (field (entry i) 10 1) 7, low i, high i, .unseen, 0, false, false, none, none⟩) →
      let pair (i : Fin 64) := ((t.get i).sourceNode, (t.get i).sourceChannel)
      ((∃ i j, i ≠ j ∧ (t.get i).valid = true ∧ (t.get j).valid = true ∧ pair i = pair j) →
        exec (.tableWriteChannel f) s = .next (answered f (refusal .duplicate) (asked s))) ∧
      ((∀ i j, i ≠ j → (t.get i).valid = true → (t.get j).valid = true → pair i ≠ pair j) → ∃ (ns : List Notice) (clamped : Bool),
        exec (.tableWriteChannel f) s = .next (answered f (doneClamped clamped) (deliverAll ns { asked s with channels := t })) ∧
        (clamped = true ↔ ∃ i, InWindow f i ∧ (low i ≠ fieldInt (entry i) 11 4 ∨ high i ≠ fieldInt (entry i) 15 4 ∨
          7 < field (entry i) 10 1)) ∧
        (∀ n ∈ ns, ∃ i : Fin 64, InWindow f i ∧ (s.channels.get i).state ≠ .unseen ∧
          n = ⟨i.val, false, 0, false, false, s.clock, (s.channels.get i).state, .unseen⟩) ∧
        (ns.map (·.channel)).Nodup ∧
        ∀ i : Fin 64, InWindow f i → (s.channels.get i).state ≠ .unseen → ∃ n ∈ ns, n.channel = i.val))

/-- An actuator table write: in index order OUT-OF-RANGE, else DUPLICATE, at the first entry that fails; an accepted one replaces
the entries and takes from the command queue the commands whose actuator no valid entry names (R173, R170). A yes-or-no byte
above 1 is out of range by the model's choice (log 16). A kiln byte above 3 with a function that names no kiln is accepted, and
which of the four indexes the entry then holds is open (log 44). That an entry which is out of range and a duplicate answers
OUT-OF-RANGE, and that of two carried entries with one pair the earlier fails, is the model's choice (log 48).
A write of kiln setup entries (R45): in index order REFUSED-STATE for a kiln that is not EMPTY, else OUT-OF-RANGE, which of one
entry is the model's choice (log 39), as is a yes-or-no byte above 1 (log 16); an accepted one clamps to the ranges of R44 and
is followed by the selection test, and by the low-room close and the feed permit, which hear of it too. An idle port B makes its
choice when the command has had its effect (log 9). -/
def Obligations.ActuatorAndKilnSetupWrites : Prop :=
  (∀ (f : Frame) (s : State), OperatorAsks s f → asksOf f 2 2 = true → writeForm f 5 = true → arg f 1 1 + arg f 2 1 ≤ 24 →
    let entry (i : Nat) := entryFor f 5 i
    let bad (e : List Byte) := 1 < field e 0 1 ∨ field e 1 1 = 0 ∨ 126 < field e 1 1 ∨ 6 < field e 3 1 ∨
      ((field e 3 1 = 1 ∨ field e 3 1 = 2) ∧ 3 < field e 4 1)
    ∃ t : Tab Actuator 24,
      (∀ i : Fin 24, ¬ InWindow f i → t.get i = s.actuators.get i) ∧
      (∀ i : Fin 24, InWindow f i → t.get i = ⟨field (entry i) 0 1 = 1, field (entry i) 1 1, field (entry i) 2 1,
        (ActuatorFunction.ofCode (field (entry i) 3 1)).getD .other, (t.get i).kiln⟩) ∧
      (∀ i : Fin 24, InWindow f i → field (entry i) 4 1 ≤ 3 → (t.get i).kiln.val = field (entry i) 4 1) ∧
      let double (i : Fin 24) := ∃ j, j ≠ i ∧ (t.get i).valid = true ∧ (t.get j).valid = true ∧
        entryActuator (t.get i) = entryActuator (t.get j)
      (∀ i : Fin 24, InWindow f i → (∀ j : Fin 24, j < i → InWindow f j → ¬ bad (entry j) ∧ ¬ double j) →
        (bad (entry i) → exec (.tableWriteActuator f) s = .next (answered f (refusal .outOfRange) (asked s))) ∧
        (¬ bad (entry i) → double i → exec (.tableWriteActuator f) s = .next (answered f (refusal .duplicate) (asked s)))) ∧
      ((∀ i : Fin 24, InWindow f i → ¬ bad (entry i) ∧ ¬ double i) → ∃ cs : List Command,
        exec (.tableWriteActuator f) s =
          .next (answered f (done []) (onRlu (fun r => { r with commands := cs })
            { asked s with actuators := t, freeCount := s.freeCount + 1 })) ∧
        cs.Sublist s.rlu.commands ∧
        ∀ c ∈ s.rlu.commands, c ∈ cs ↔ ∃ i, (t.get i).valid = true ∧ entryActuator (t.get i) = commandActuator c)) ∧
  (∀ (f : Frame) (s : State), OperatorAsks s f → asksOf f 2 4 = true → writeForm f 16 = true → arg f 1 1 + arg f 2 1 ≤ 4 →
    let entry (k : Fin 4) := entryFor f 16 k
    let bad (e : List Byte) := 1 < field e 0 1 ∨ 63 < field e 1 1 ∨ 63 < field e 2 1 ∨ 63 < field e 3 1 ∨ 23 < field e 4 1 ∨
      23 < field e 5 1 ∨ 8 < field e 14 1 ∨ 1 < field e 15 1
    let good (k : Fin 4) := (s.kilns.get k).state = .empty ∧ ¬ bad (entry k)
    (∀ k : Fin 4, InWindow f k → (∀ j : Fin 4, j < k → InWindow f j → good j) →
      ((s.kilns.get k).state ≠ .empty → exec (.tableWriteKilnSetup f) s = .next (answered f (refusal .refusedState) (asked s))) ∧
      ((s.kilns.get k).state = .empty → bad (entry k) →
        exec (.tableWriteKilnSetup f) s = .next (answered f (refusal .outOfRange) (asked s)))) ∧
    ((∀ k : Fin 4, InWindow f k → good k) → ∃ (t : Tab KilnSetup 4) (clamped : Bool),
      exec (.tableWriteKilnSetup f) s = .next (answered f (doneClamped clamped)
        (decideFeed (lowRoomClose (selectKiln (onKfr (fun b => { b with setups := t }) (asked s)))))) ∧
      (∀ k : Fin 4, ¬ InWindow f k → t.get k = s.kfr.setups.get k) ∧
      (∀ k : Fin 4, InWindow f k → let e := entry k
        t.get k = ⟨field e 0 1 = 1, field e 1 1, field e 2 1, field e 3 1, field e 4 1, field e 5 1,
          max 1000000 (min 20000000 (field e 6 4)), max 300 (min 900 (field e 10 2)), min 1000 (field e 12 2), field e 14 1,
          field e 15 1 = 1⟩) ∧
      (clamped = true ↔ ∃ k : Fin 4, InWindow f k ∧ (field (entry k) 6 4 < 1000000 ∨ 20000000 < field (entry k) 6 4 ∨
        field (entry k) 10 2 < 300 ∨ 900 < field (entry k) 10 2 ∨ 1000 < field (entry k) 12 2))))

/-- A CONFIG write (R183): OUT-OF-RANGE for an index or address out of range or a floor capacity below the floor book; else
every other field is clamped, the record replaced and valid, and each reader makes its tests, in an order that is open
(log 30). An idle port B makes its choice when the command has had its
effect (log 9). -/
def Obligations.ConfigWritesAreCheckedAndTaken : Prop :=
  ∀ (f : Frame) (s : State), Asked s f → asksOf f 2 5 = true → writeForm f 55 = true →
    mayWriteConfig f s (classOf s f.src.toNat) = true → arg f 1 1 = 0 → arg f 2 1 = 1 →
    let c := carriedConfig f
    let node (n : Nat) := 1 ≤ n ∧ n ≤ 126
    let named := c.beltLoad ≤ 63 ∧ c.beltSpeed ≤ 63 ∧ c.pressScale ≤ 63 ∧ c.pressCharge ≤ 63 ∧
      node c.hookNode ∧ node c.pressNode ∧ node c.unloadNode
    let record : StationConfig := { c with
      transitDelay := min 600 c.transitDelay, feedQuantum := max 10000 (min 1000000 c.feedQuantum)
      feederSlow := max 50 (min 1000 c.feederSlow), baleTarget := max 20000 (min 250000 c.baleTarget)
      baleTolerance := min 20000 c.baleTolerance, baleTare := min 5000 c.baleTare
      settleLimit := max 1 (min 60 c.settleLimit), pressSlowBand := min 50000 c.pressSlowBand
      pressSlow := max 50 (min 1000 c.pressSlow), reference := max 50 (min 150 c.reference)
      floorCapacity := min 40000000 c.floorCapacity, emptyThreshold := min 200000 c.emptyThreshold
      unloadSettle := max 5 (min 120 c.unloadSettle), unloadTimeout := max 5 (min 240 c.unloadTimeout)
      overdryLimit := max 10 (min 720 c.overdryLimit), evalInterval := max 5 (min 60 c.evalInterval)
      mismatch := max 10 (min 300 c.mismatch), overtempMargin := min 200 c.overtempMargin
      starvationGuard := max 4 (min 64 c.starvationGuard), idleTimeout := max 10 (min 1000 c.idleTimeout) }
    (¬ named → exec (.tableWriteConfig f) s = .next (answered f (refusal .outOfRange) (asked s))) ∧
    (named → record.floorCapacity < floorBook s →
      exec (.tableWriteConfig f) s = .next (answered f (refusal .outOfRange) (asked s))) ∧
    (named → floorBook s ≤ record.floorCapacity →
      let held := onMgu (fun m => { m with config := record, configValid := true }) (asked s)
      ∃ (order : List ConfigReader) (choices : List Nat) (test : State → ConfigReader → State),
        order.Perm [.itk, .kfr, .uar, .pru, .rlu] ∧
        (∀ t, test t .kfr = lowRoomClose t ∧ test t .uar = grantTest t ∧ test t .pru = decidePress t) ∧
        (∀ t, test t .itk = decideFeed
          (if s.mgu.configValid = true ∧ s.mgu.config.beltLoad = record.beltLoad then t
            else onItk (fun b => { b with prevBelt := none, accumulator := 0 }) t)) ∧
        (∀ t, test t .rlu = if s.mgu.configValid = true then silenceTest t
          else onRlu (fun r => { r with silenceFrom := some t.clock }) t) ∧
        exec (.tableWriteConfig f) s = .next (answered f (if record = c then done [] else ⟨.doneClamped, .bytes []⟩)
          (order.foldl test { held with sched := choices })))

/-! ### Recipes, the time, events and START (R60 to R62, R84, R184 to R188) -/

/-- RECIPE-BEGIN opens the staging area, RECIPE-STAGE takes the next stage clamped, RECIPE-END replaces the recipe whole, each with
the refusals of its rule and nothing else changed (R60, R61, R62).
TIME-SET sets the time, its flag, and starts the next second afresh (R184). EVENT-ENABLE replaces the 24 enables and makes the
requester the report destination (R185). EVENT-CLEAR clears the kinds of its set and answers their counts (R186). An idle port B
makes its choice when the command has had its effect (log 9). -/
def Obligations.RecipeTimeAndEventRequests : Prop :=
  (∀ (f : Frame) (s : State), OperatorAsks s f →
    let staged (g : Option Staging) := onRct (fun r => { r with staging := g }) (asked s)
    (Carries f 4 4 →
      let n := arg f 0 1
      let d := arg f 1 1
      let rest := arg f 2 2
      ((n = 0 ∨ 8 < n ∨ d = 0 ∨ 6 < d) → exec (.recipeBegin f) s = .next (answered f (refusal .outOfRange) (asked s))) ∧
      (1 ≤ n → n ≤ 8 → 1 ≤ d → d ≤ 6 → exec (.recipeBegin f) s =
        .next (answered f ⟨if rest ≤ 1440 then .done else .doneClamped, .bytes []⟩ (staged (some ⟨n, d, min rest 1440, []⟩))))) ∧
    (Carries f 5 13 →
      (s.rct.staging = none → exec (.recipeStage f) s = .next (answered f (refusal .sequence) (asked s))) ∧
      ∀ g, s.rct.staging = some g →
        ((arg f 0 1 ≠ g.stages.length + 1 ∨ g.declared < arg f 0 1) →
          exec (.recipeStage f) s = .next (answered f (refusal .sequence) (staged none))) ∧
        (arg f 0 1 = g.stages.length + 1 → arg f 0 1 ≤ g.declared →
          (2 < arg f 6 1 → exec (.recipeStage f) s = .next (answered f (refusal .outOfRange) (asked s))) ∧
          ∀ kind, EndKind.ofCode (arg f 6 1) = some kind →
            let lo := max 1 (min 1440 (arg f 9 2))
            let st : Stage := ⟨max 300 (min 850 (arg f 1 2)), min 1000 (arg f 3 2), min 100 (arg f 5 1), kind,
              min 1000 (arg f 7 2), lo, max lo (max 1 (min 1440 (arg f 11 2)))⟩
            exec (.recipeStage f) s = .next (answered f
              ⟨if st = ⟨arg f 1 2, arg f 3 2, arg f 5 1, kind, arg f 7 2, arg f 9 2, arg f 11 2⟩ then .done else .doneClamped,
                .bytes []⟩
              (staged (some { g with stages := g.stages ++ [st] }))))) ∧
    (Carries f 6 1 →
      (s.rct.staging = none → exec (.recipeEnd f) s = .next (answered f (refusal .sequence) (asked s))) ∧
      ∀ g, s.rct.staging = some g →
        ((arg f 0 1 ≠ g.declared ∨ g.stages.length ≠ g.declared) →
          exec (.recipeEnd f) s = .next (answered f (refusal .sequence) (staged none))) ∧
        (arg f 0 1 = g.declared → g.stages.length = g.declared → exec (.recipeEnd f) s = .next (answered f (done [])
          (onRct (fun r => ⟨r.recipes.put (g.recipe - 1) ⟨g.rest, g.stages⟩, none⟩) (asked s)))))) ∧
  (∀ (f : Frame) (s : State), OperatorAsks s f →
    (Carries f 7 4 → exec (.timeSet f) s = .next (answered f (done []) (onMgu (fun m => { m with
      timeOfDay := BitVec.ofNat 32 (arg f 0 4), timeValid := true, nextSecond := s.clock + 1000 }) (asked s)))) ∧
    (Carries f 8 4 → ∃ u, exec (.eventEnable f) s = .next (answered f (done []) u) ∧ u = { asked s with mgu := u.mgu } ∧
      u.mgu = { s.mgu with events := u.mgu.events, reportDest := some f.src.toNat } ∧
      ∀ i : Fin 24, u.mgu.events.get i = { s.mgu.events.get i with enable := (arg f 0 4).testBit i }) ∧
    (Carries f 9 4 → ∃ u,
      exec (.eventClear f) s = .next (answered f
        (done (((List.finRange 24).filter (fun i : Fin 24 => (arg f 0 4).testBit i.val)).map
          (fun i => BitVec.ofNat 8 (s.mgu.events.get i).count))) u) ∧
      u = { asked s with mgu := u.mgu } ∧ u.mgu = { s.mgu with events := u.mgu.events } ∧
      ∀ i : Fin 24, u.mgu.events.get i =
        if (arg f 0 4).testBit i then ⟨false, (s.mgu.events.get i).enable, 0⟩ else s.mgu.events.get i))

/-- START (R188): refused in started mode or with an invalid CONFIG record; else the mode, the orphan check of each kiln (R84), in
an order that is open (log 4), then the first tests, with the orphan kilns in the reply. That the feed permit is decided once
more after the hooking start test is the model's choice (log 15). An idle port B makes its choice when the command has had its
effect (log 9). -/
def Obligations.StartMakesTheOrphanChecksAndFirstTests : Prop :=
  (∀ (f : Frame) (s : State), OperatorAsks s f → Carries f 10 0 →
    ((started s = true ∨ s.mgu.configValid = false) →
      exec (.start f) s = .next (answered f (refusal .refusedState) (asked s))) ∧
    (started s = false → s.mgu.configValid = true → ∃ (order : List (Fin 4)) (choices : List Nat) (bits : Nat),
      order.Perm [0, 1, 2, 3] ∧
      exec (.start f) s = .next (answered f (done [BitVec.ofNat 8 bits])
        (decidePress (selectKiln (decideFeed (hookingTest (order.foldl orphanCheck
          { onMgu (fun m => { m with mode := .started }) (asked s) with sched := choices })))))) ∧
      ∀ k : Fin 4, bits.testBit k = true ↔ ((setupOf s k).enabled = true ∧ (s.kilns.get k).state = .empty ∧
        isLive s (setupOf s k).scale = true ∧ (s.mgu.config.emptyThreshold : Int) < heldValue s (setupOf s k).scale))) ∧
  ∀ (k : Fin 4) (s : State),
    let orphan := (setupOf s k).enabled = true ∧ (s.kilns.get k).state = .empty ∧ isLive s (setupOf s k).scale = true ∧
      (s.mgu.config.emptyThreshold : Int) < heldValue s (setupOf s k).scale
    (orphan → orphanCheck s k = postEvent .orphanLoad (kilnContext k) (postBurner k 0 (moveKiln k .orphan s))) ∧
    (¬ orphan → orphanCheck s k = s)

/-! ### Job requests: lots (R22, R23, R28) -/

/-- LOT-OPEN with its refusals in order and the record it makes (R22), LOT-CANCEL of a QUEUED lot (R23), LOT-END of a HOOKING one
(R28). That the feed permit is decided once more after the hooking start test of a LOT-OPEN is the model's choice (log 15). An
idle port B makes its choice when the command has had its effect (log 9). -/
def Obligations.LotRequests : Prop :=
  ∀ (f : Frame) (s : State), OperatorWorks s f →
    let n := arg f 0 2
    let held (i : Fin 32) := ∃ l, lotAt s i = some l ∧ l.number = n
    (Carries f 11 9 →
      let bad := n = 0 ∨ arg f 2 2 = 0 ∨ 4095 < arg f 2 2 ∨ 999 < arg f 7 2
      (bad → exec (.lotOpen f) s = .next (answered f (refusal .outOfRange) (asked s))) ∧
      (¬ bad → (∃ i, held i) → exec (.lotOpen f) s = .next (answered f (refusal .duplicate) (asked s))) ∧
      (¬ bad → (¬ ∃ i, held i) → ((∀ i, lotAt s i ≠ none) ∨ 8 ≤ s.itk.queue.length) →
        exec (.lotOpen f) s = .next (answered f (refusal .noRoom) (asked s))) ∧
      ∀ slot : Fin 32, ¬ bad → (¬ ∃ i, held i) → s.itk.queue.length < 8 → lotAt s slot = none →
        (∀ j, j < slot → lotAt s j ≠ none) →
        let w := arg f 5 2
        let clamped := w < 600 ∨ 900 < w
        let l : Lot := ⟨n, arg f 2 2, arg f 4 1, max 600 (min 900 w), arg f 7 2, 0, .queued, 0, 0, 0, 0, 0, [], 0, 0, 0, 0,
          validTime s, none, ⟨false, clamped, false, false, false, false, false, false, false, (validTime s).isNone, false⟩⟩
        exec (.lotOpen f) s = .next (answered f
          ⟨if clamped then .doneClamped else .done, .bytes [BitVec.ofNat 8 slot.val]⟩
          (decideFeed (hookingTest (onItk (fun b => { b with lots := b.lots.set slot (some l), queue := b.queue ++ [slot] })
            (asked s)))))) ∧
    (Carries f 12 2 →
      ((¬ ∃ i, held i) → exec (.lotCancel f) s = .next (answered f (refusal .notFound) (asked s))) ∧
      ∀ slot l, lotAt s slot = some l → l.number = n → (∀ j, j < slot → ¬ held j) →
        (l.state ≠ .queued → exec (.lotCancel f) s = .next (answered f (refusal .refusedState) (asked s))) ∧
        (l.state = .queued → ∃ u, exec (.lotCancel f) s = .next (answered f (done []) u) ∧
          u = { asked s with itk := u.itk } ∧ lotAt u slot = none ∧ (∀ j, j ≠ slot → lotAt u j = lotAt s j) ∧
          u.itk.queue = s.itk.queue.filter (fun i => decide (i ≠ slot)) ∧
          u.itk = { s.itk with lots := u.itk.lots, queue := u.itk.queue, deferred := u.itk.deferred })) ∧
    (Carries f 13 2 →
      ((¬ ∃ i, held i) → exec (.lotEnd f) s = .next (answered f (refusal .notFound) (asked s))) ∧
      ∀ slot l, lotAt s slot = some l → l.number = n → (∀ j, j < slot → ¬ held j) →
        (l.state ≠ .hooking → exec (.lotEnd f) s = .next (answered f (refusal .refusedState) (asked s))) ∧
        (l.state = .hooking → exec (.lotEnd f) s = .next (answered f (done []) (endHooking slot (asked s)))))

/-! ### Job requests: kilns (R55, R63, R66, R79, R81, R82, R85) -/

/-- R79: KILN-HOLD by class, mode, kiln index and kiln state, and what else it leaves alone. An idle port B makes its choice when
the command has had its effect (log 9). -/
def Obligations.KilnHoldByKilnState : Prop :=
  ∀ (f : Frame) (s : State), Asked s f → Carries f 15 1 →
    let c := classOf s f.src.toNat
    (c = .viewer → exec (.kilnHold f) s = .next (answered f (refusal .notPermitted) (asked s))) ∧
    ((c = .operator ∨ c = .weighmaster) → started s = false →
      exec (.kilnHold f) s = .next (answered f (refusal .notStarted) (asked s))) ∧
    ((c = .operator ∨ c = .weighmaster) → started s = true →
      (3 < arg f 0 1 → exec (.kilnHold f) s = .next (answered f (refusal .outOfRange) (asked s))) ∧
      ∀ k : Fin 4, arg f 0 1 = k.val →
        (∀ i, (s.kilns.get k).state = .drying i → ∃ u, exec (.kilnHold f) s = .next (answered f (done []) u) ∧
          (u.kilns.get k).state = .held i ∧ (u.kilns.get k).causes = ⟨false, false, true⟩ ∧
          (∀ j, j ≠ k → u.kilns.get j = s.kilns.get j) ∧ u.kfr = s.kfr ∧ u.uar = s.uar ∧ u.cfl = s.cfl ∧ u.pru = s.pru ∧
          u.itk.lots = s.itk.lots ∧ u.itk.queue = s.itk.queue ∧ SameTables s u ∧ SameTickets s u ∧ SameSurroundings s u) ∧
        (∀ i, (s.kilns.get k).state = .held i → exec (.kilnHold f) s = .next (answered f (done [])
          (modifyKiln k (fun kl => { kl with causes := { kl.causes with operator := true } }) (asked s)))) ∧
        ((∀ i, (s.kilns.get k).state ≠ .drying i) → (∀ i, (s.kilns.get k).state ≠ .held i) →
          exec (.kilnHold f) s = .next (answered f (refusal .refusedState) (asked s))))

/-- The kiln requests by kiln index and kiln state: KILN-START (R66), KILN-RESUME (R81), KILN-FILL-CLOSE (R55), KILN-RECIPE
(R63) and KILN-CLEAR (R85), refusals included. An idle port B makes its choice when the command has had its
effect (log 9). -/
def Obligations.KilnRequestsByKilnState : Prop :=
  ∀ (f : Frame) (s : State),
    (OperatorWorks s f → 3 < arg f 0 1 →
      (Carries f 14 1 → exec (.kilnStart f) s = .next (answered f (refusal .outOfRange) (asked s))) ∧
      (Carries f 16 1 → exec (.kilnResume f) s = .next (answered f (refusal .outOfRange) (asked s))) ∧
      (Carries f 18 1 → exec (.kilnFillClose f) s = .next (answered f (refusal .outOfRange) (asked s))) ∧
      (Carries f 20 2 → exec (.kilnRecipe f) s = .next (answered f (refusal .outOfRange) (asked s)))) ∧
    (WeighmasterWorks s f → Carries f 19 1 →
      (3 < arg f 0 1 → exec (.kilnClear f) s = .next (answered f (refusal .outOfRange) (asked s))) ∧
      ∀ k : Fin 4, arg f 0 1 = k.val →
        ((s.kilns.get k).state ≠ .orphan → exec (.kilnClear f) s = .next (answered f (refusal .refusedState) (asked s))) ∧
        ((s.kilns.get k).state = .orphan → ∃ u, exec (.kilnClear f) s = .next (answered f (done []) (selectKiln u)) ∧
          (u.kilns.get k).state = .empty ∧ u.kfr.loads.get k = ⟨none, [], 0, false⟩ ∧
          (u.kilns.get k).causes = ⟨false, false, false⟩ ∧ (u.kilns.get k).forced = false ∧
          (∀ j, j ≠ k → u.kilns.get j = s.kilns.get j ∧ u.kfr.loads.get j = s.kfr.loads.get j))) ∧
    ∀ k : Fin 4, OperatorWorks s f → arg f 0 1 = k.val →
      (Carries f 14 1 →
        let n := (s.kfr.setups.get k).recipe
        let ready := (s.kilns.get k).state = .loaded ∧ n ≠ 0 ∧ (s.rct.recipes.getD (n - 1) ⟨0, []⟩).stages ≠ []
        (¬ ready → exec (.kilnStart f) s = .next (answered f (refusal .refusedState) (asked s))) ∧
        (ready → exec (.kilnStart f) s = .next (answered f (done []) (startDrying k (asked s))))) ∧
      (Carries f 16 1 →
        let cool := isLive s (s.kfr.setups.get k).plenum = true ∧
          heldValue s (s.kfr.setups.get k).plenum ≤ ((s.kfr.setups.get k).ceiling : Int)
        (((∀ i, (s.kilns.get k).state ≠ .held i) ∨ ¬ cool) →
          exec (.kilnResume f) s = .next (answered f (refusal .refusedState) (asked s))) ∧
        ∀ i, (s.kilns.get k).state = .held i → cool → ∃ u,
          exec (.kilnResume f) s = .next (answered f (done []) (postDrying k i u)) ∧
          u.kilns.get k = { s.kilns.get k with state := .drying i, causes := ⟨false, false, false⟩ } ∧
          (∀ j, j ≠ k → u.kilns.get j = s.kilns.get j) ∧ u.kfr = s.kfr ∧ u.itk.lots = s.itk.lots) ∧
      (Carries f 18 1 →
        let full := (s.kilns.get k).state = .filling ∧ (s.kfr.loads.get k).contributions ≠ []
        (¬ full → exec (.kilnFillClose f) s = .next (answered f (refusal .refusedState) (asked s))) ∧
        (full → exec (.kilnFillClose f) s = .next (answered f (done []) (enterLoaded k (asked s))))) ∧
      (Carries f 20 2 →
        (8 < arg f 1 1 → exec (.kilnRecipe f) s = .next (answered f (refusal .outOfRange) (asked s))) ∧
        (arg f 1 1 ≤ 8 → ∃ t : Tab KilnSetup 4,
          exec (.kilnRecipe f) s = .next (answered f (done []) (onKfr (fun b => { b with setups := t }) (asked s))) ∧
          t.get k = { s.kfr.setups.get k with recipe := arg f 1 1 } ∧ ∀ j, j ≠ k → t.get j = s.kfr.setups.get j))

/-- KILN-FORCE-END by kiln index and kiln state (R82), with the load of a forced ORPHAN kiln (R83) and the entry to ENDPOINT (R75):
its state, causes, endpoint time and overdry deadline, before the commands, the report to the UAR and the occurrence. The forced
end of a kiln with a load sets FORCED on the kiln and on the load's lots first. An idle port B makes its choice when the command
has had its effect (log 9). -/
def Obligations.KilnForceEndByKilnState : Prop :=
  (∀ (f : Frame) (s : State), OperatorWorks s f → Carries f 17 1 →
    (3 < arg f 0 1 → exec (.kilnForceEnd f) s = .next (answered f (refusal .outOfRange) (asked s))) ∧
    ∀ k : Fin 4, arg f 0 1 = k.val →
      (((s.kilns.get k).state = .empty ∨ (s.kilns.get k).state = .filling ∨ (s.kilns.get k).state = .endpoint ∨
        (s.kilns.get k).state = .unloading) →
        exec (.kilnForceEnd f) s = .next (answered f (refusal .refusedState) (asked s))) ∧
      ((s.kilns.get k).state = .loaded →
        exec (.kilnForceEnd f) s = .next (answered f (done []) (enterEndpoint k (armTimer k (formEstimate k
          (modifyKiln k (fun kl => { kl with rest := (recipeOf s (s.kfr.setups.get k).recipe).rest })
            (markForced k (asked s)))))))) ∧
      (((∃ i, (s.kilns.get k).state = .drying i) ∨ ∃ i, (s.kilns.get k).state = .held i) →
        let rest := match (s.kilns.get k).running with
          | some r => r.copy.rest
          | none => (s.kilns.get k).rest
        exec (.kilnForceEnd f) s = .next (answered f (done []) (enterEndpoint k
          (modifyKiln k (fun kl => { kl with rest := rest }) (markForced k (asked s)))))) ∧
      (let u := markForced k (asked s)
       u.kilns.get k = { s.kilns.get k with forced := true } ∧ u.kfr = s.kfr ∧ ∀ j, j ≠ k → u.kilns.get j = s.kilns.get j) ∧
      ((s.kilns.get k).state = .orphan → ∃ u,
        let green := min (heldValue s (s.kfr.setups.get k).scale).toNat 4294967295
        let r := s.mgu.config.reference
        exec (.kilnForceEnd f) s = .next (answered f (done []) (enterEndpoint k (armTimer k u))) ∧
        u = { asked s with kfr := u.kfr, kilns := u.kilns } ∧ (∀ j, j ≠ k → u.kilns.get j = s.kilns.get j) ∧
        u.kfr.loads.get k = ⟨some s.kfr.nextSerial, [⟨none, 0, green, r, green * (1000 - r) / 1000⟩], 0, false⟩ ∧
        (u.kilns.get k).forced = true ∧ (u.kilns.get k).estimate = r ∧ (u.kilns.get k).rest = 0 ∧
        (u.kilns.get k).running = none ∧ u.kfr.nextSerial = nextInSequence 65535 s.kfr.nextSerial)) ∧
  ∀ (k : Fin 4) (s : State),
    joinRequests k s = grantTest (onUar (fun b => { b with requests := b.requests ++ [k] }) s) ∧ ∃ u,
    enterEndpoint k s = postEvent .endpoint (kilnContext k) (joinRequests k (postEndpoint k u)) ∧
    u.kilns.get k = { s.kilns.get k with
      state := .endpoint, debounce := 0, causes := ⟨false, false, false⟩, endpointTime := some ⟨s.clock, validTime s⟩
      overdry := some (after s.clock (60000 * s.mgu.config.overdryLimit)) } ∧
    ∀ j, j ≠ k → u.kilns.get j = s.kilns.get j

/-! ### Drying (R68 to R73, R76, R80) -/

/-- A drying start (R68), in its order: the running copy, the load mismatch check (R69), the setpoint from the plenum, the first
stage, DRYING, the evaluation timer (R70), the commands of stage 1 (R74), and the hold with cause PLENUM of a kiln whose plenum is
not LIVE (R77). -/
def Obligations.DryingStartsFromTheAssignedRecipe : Prop :=
  ∀ (k : Fin 4) (s : State),
    let e := s.kfr.setups.get k
    let t := startDrying k s
    let kl := t.kilns.get k
    (let copied := modifyKiln k (fun l => { l with
        running := some ⟨e.recipe, recipeOf s e.recipe⟩, rest := (recipeOf s e.recipe).rest }) s
      let first := modifyKiln k (fun l => { l with
        setpoint := if isLive s e.plenum = true then max 0 (min (e.ceiling : Int) (heldValue s e.plenum)) else 300
        elapsed := 0, debounce := 0, suspectRun := false }) (mismatchCheck k copied)
      let posted := postDrying k 1 (armTimer k (decideFeed (modifyKiln k (fun l => { l with state := .drying 1 }) first)))
      (isLive s e.plenum = true → t = posted) ∧ (isLive s e.plenum = false → t = holdKiln k ⟨true, false, false⟩ posted)) ∧
    kl.running = some ⟨e.recipe, recipeOf s e.recipe⟩ ∧ kl.rest = (recipeOf s e.recipe).rest ∧ kl.elapsed = 0 ∧
    kl.debounce = 0 ∧ kl.suspectRun = false ∧
    kl.evalDeadline = some (after s.clock (1000 * s.mgu.config.evalInterval)) ∧
    (isLive s e.plenum = true → kl.state = .drying 1 ∧
      kl.setpoint = max 0 (min (e.ceiling : Int) (heldValue s e.plenum))) ∧
    (isLive s e.plenum = false → kl.state = .held 1 ∧ kl.causes = ⟨true, false, false⟩ ∧ kl.setpoint = 300) ∧
    ∀ j, j ≠ k → t.kilns.get j = s.kilns.get j

/-- The expiry of a kiln's evaluation timer (R70): armed again with the present E, then the evaluation of a HELD (R80), an ENDPOINT
(R76) or a DRYING kiln (R71 to R73): stage elapsed and setpoint advanced, the estimate formed, the debounce count kept by the
threshold of the stage's kind (R72), and the stage ended by its condition, by an overrun, or kept. That stage elapsed holds at
86,400 is the model's choice (log 29).
The moisture estimate formed at an evaluation (R71): kept, with the debounce count 0, when the scale is not LIVE; else formed
from the net and the dry total, 0 for a net of 0 or at or below the dry total. A net above 0 and not above the dry total begins
a suspect run, with the load's flag and its lots' updates, when the flag was clear, and one SCALE-SUSPECT; any other ends the
run. An idle port B makes its choice when the command has had its effect (log 9). When a deadline is reached is counted modulo
2^32 (log 3). -/
def Obligations.EvaluationOfAKiln : Prop :=
  (∀ (k : Fin 4) (d : Time) (s : State), (s.kilns.get k).evalDeadline = some d → reached d s.clock = true →
    let e := s.mgu.config.evalInterval
    let armed := modifyKiln k (fun kl => { kl with evalDeadline := some (after s.clock (1000 * e)) }) s
    (∀ i, (s.kilns.get k).state = .held i →
      exec (.evaluationExpiry k) s = .next (startPortB (postHeld k i (formEstimate k armed)))) ∧
    ((s.kilns.get k).state = .endpoint →
      ((∃ c ∈ (s.kfr.loads.get k).contributions, c.slot = none) →
        exec (.evaluationExpiry k) s = .next (startPortB (postEndpoint k armed))) ∧
      ((∀ c ∈ (s.kfr.loads.get k).contributions, c.slot ≠ none) →
        exec (.evaluationExpiry k) s = .next (startPortB (postEndpoint k (formEstimate k armed))))) ∧
    ∀ i, (s.kilns.get k).state = .drying i → ∃ (sp : Int) (u : State),
      let st := stageAt (s.kilns.get k) i
      let entry := s.kfr.setups.get k
      let formed := formEstimate k
        (modifyKiln k (fun kl => { kl with elapsed := min 86400 (kl.elapsed + e), setpoint := sp }) armed)
      let kl := u.kilns.get k
      let step : Int := max 1 (st.ramp * e / 60 : Nat)
      let gap : Int := (st.setpoint : Int) - (s.kilns.get k).setpoint
      let below := match st.endKind with
        | .time => False
        | .rh => isLive s entry.exhaust = true ∧ heldValue s entry.exhaust ≤ (st.threshold : Int)
        | .moisture => isLive s entry.scale = true ∧ kl.estimate ≤ st.threshold
      let count := if isLive s entry.scale = true then (s.kilns.get k).debounce else 0
      let met := match st.endKind with
        | .time => st.max * 60 ≤ kl.elapsed
        | _ => kl.debounce = 3 ∧ st.min * 60 ≤ kl.elapsed
      u = modifyKiln k (fun l => { l with debounce := kl.debounce }) formed ∧
      kl.elapsed = min 86400 ((s.kilns.get k).elapsed + e) ∧ kl.evalDeadline = some (after s.clock (1000 * e)) ∧
      kl.state = .drying i ∧ kl.running = (s.kilns.get k).running ∧ kl.setpoint = sp ∧
      ((st.ramp = 0 ∨ (-step ≤ gap ∧ gap ≤ step)) → sp = (st.setpoint : Int)) ∧
      (st.ramp ≠ 0 → step < gap → sp = (s.kilns.get k).setpoint + step) ∧
      (st.ramp ≠ 0 → gap < -step → sp = (s.kilns.get k).setpoint - step) ∧
      (isLive s entry.scale = false → kl.estimate = (s.kilns.get k).estimate) ∧
      (isLive s entry.scale = true → kl.estimate = (moistureEstimate (netOf s k) (dryTotal (loadOf s k))).1) ∧
      (st.endKind = .time → kl.debounce = count) ∧
      (st.endKind ≠ .time → below → kl.debounce = min 3 (count + 1)) ∧
      (st.endKind ≠ .time → ¬ below → kl.debounce = 0) ∧
      (∀ j, j ≠ k → u.kilns.get j = s.kilns.get j) ∧
      let next (w : State) := postDrying k (i + 1)
        (modifyKiln k (fun kl => { kl with elapsed := 0, debounce := 0 }) (moveKiln k (.drying (i + 1)) w))
      (met → i < stageCount (s.kilns.get k) → exec (.evaluationExpiry k) s = .next (startPortB (next u))) ∧
      (met → stageCount (s.kilns.get k) ≤ i → exec (.evaluationExpiry k) s = .next (startPortB (enterEndpoint k u))) ∧
      (¬ met → kl.elapsed < st.max * 60 → exec (.evaluationExpiry k) s = .next (startPortB (postDrying k i u))) ∧
      (¬ met → st.max * 60 ≤ kl.elapsed →
        let w := postEvent .stageOverrun (kilnContext k) u
        (i < stageCount (s.kilns.get k) → exec (.evaluationExpiry k) s = .next (startPortB (next w))) ∧
        (stageCount (s.kilns.get k) ≤ i → exec (.evaluationExpiry k) s = .next (startPortB (enterEndpoint k w))))) ∧
  (∀ (k : Fin 4) (s : State),
    let net := netOf s k
    let dry := dryTotal (loadOf s k)
    let kept (m : Nat) (run : Bool) := modifyKiln k (fun kl => { kl with estimate := m, suspectRun := run }) s
    net = (heldValue s (setupOf s k).scale - (loadOf s k).tare).toNat ∧
    (isLive s (setupOf s k).scale = false → formEstimate k s = modifyKiln k (fun kl => { kl with debounce := 0 }) s) ∧
    (isLive s (setupOf s k).scale = true →
      (dry < net → formEstimate k s = kept (min 999 ((net - dry) * 1000 / net)) false) ∧
      (net = 0 → formEstimate k s = kept 0 false) ∧
      (0 < net → net ≤ dry →
        ((s.kilns.get k).suspectRun = true → formEstimate k s = kept 0 true) ∧
        ((s.kilns.get k).suspectRun = false → (loadOf s k).suspect = true →
          formEstimate k s = postEvent .scaleSuspect (kilnContext k) (kept 0 true)) ∧
        ((s.kilns.get k).suspectRun = false → (loadOf s k).suspect = false →
          formEstimate k s = postEvent .scaleSuspect (kilnContext k) (markSuspect k (kept 0 true))))))

/-! ### Unload, floor and press (R92 to R102, R108 to R116) -/

/-- An UNLOAD-DONE mark for the granted kiln and the settle deadline complete the unload; a mark that names another kiln, or finds
no grant, is forwarded and does nothing else (R94, R95).
Unload completion (R96), in its order: the layer filled in or removed, the retired and floor share updates of the load's
contributions, the grant record removed, the kiln EMPTY with its load record cleared, the conveyor command of 0, and the tests.
That the values last posted outlast the kiln's EMPTY is the model's choice (log 23). A layer filled in (R97): its mass,
moisture, FORCED flag, unload time, rest due time and state, and its shares by the split over the contributions' dry, those of
lots in contribution order and the rest UNASSIGNED, none of 0. An idle port B makes its choice when the command has had its
effect (log 9). When a deadline is reached is counted modulo 2^32 (log 3). -/
def Obligations.UnloadCompletes : Prop :=
  ((∀ (f : Frame) (s : State), MarkTaken s f (·.unloadNode) → marks f 6 = true →
    (s.uar.grant = none → exec (.unloadDone f) s = .next (startPortB (forward f (taken s)))) ∧
    ∀ g, s.uar.grant = some g →
      (field f.payload 1 1 ≠ g.kiln.val → exec (.unloadDone f) s = .next (startPortB (forward f (taken s)))) ∧
      (field f.payload 1 1 = g.kiln.val →
        exec (.unloadDone f) s = .next (startPortB (forward f (completeUnload g (taken s)))))) ∧
  ∀ (s : State) (g : Grant) (d : Time), s.uar.grant = some g → g.settle = some d → reached d s.clock = true →
    exec .unloadSettleDeadline s = .next (startPortB (completeUnload g s))) ∧
  ((∀ (g : Grant) (s : State),
    let mass := g.net - netOf s g.kiln
    let cs := (loadOf s g.kiln).contributions
    let receiver (l : Layer) := l.state = .receiving ∧ l.number = g.layer
    ∃ u v : State,
      u = setLayers (if mass = 0 then s.cfl.layers.filter (fun l => decide (¬ receiver l))
        else s.cfl.layers.map (fun l => if receiver l then filledLayer s g mass l else l)) s ∧
      v = emptyKiln g.kiln (onUar (fun b => { b with grant := none }) (retireAll (cs.zip (contributionParts mass cs)) u)) ∧
      completeUnload g s = selectKiln (grantTest (decidePress (postConveyor 0 v))) ∧
      v.cfl = u.cfl ∧ v.uar = { s.uar with grant := none } ∧ v.kfr.loads.get g.kiln = ⟨none, [], 0, false⟩ ∧
      (let kl := s.kilns.get g.kiln
       v.kilns.get g.kiln = ⟨.empty, none, 0, 0, 0, 0, 0, false, ⟨false, false, false⟩, none, none, none, false,
         kl.burnerBound, kl.fanBound, kl.lastBurner, kl.lastFan⟩) ∧
      ∀ j, j ≠ g.kiln → v.kilns.get j = s.kilns.get j ∧ v.kfr.loads.get j = s.kfr.loads.get j) ∧
  (∀ (g : Grant) (mass : Nat) (l : Layer) (s : State),
    let kl := s.kilns.get g.kiln
    filledLayer s g mass l = { l with
      mass := mass, remaining := mass, moisture := g.moisture, shares := layerShares mass (loadOf s g.kiln).contributions
      unloadTime := some ⟨s.clock, validTime s⟩, forced := l.forced || kl.forced
      state := if kl.rest = 0 then .ready else .resting
      restDue := if kl.rest = 0 then none else some (after s.clock (60000 * kl.rest)) }) ∧
  ∀ (mass : Nat) (cs : List Contribution),
    let parts := contributionParts mass cs
    (split mass (cs.map (·.dry)) = some parts ∨ ((cs.map (·.dry)).sum = 0 ∧ parts = cs.map (fun _ => 0))) ∧
    ((layerShares mass cs).map (·.grams)).sum = mass ∧
    ∃ (lots : List (Contribution × Nat)) (rest : Nat),
      lots = (cs.zip parts).filter (fun p => decide (p.1.slot ≠ none ∧ 0 < p.2)) ∧ rest = mass - (lots.map (·.2)).sum ∧
      layerShares mass cs = lots.map (fun p => ⟨p.1.slot, p.1.lotNumber, p.2⟩) ++
        if rest = 0 then [] else [⟨none, 0, rest⟩])

/-- A RESTING layer goes READY at its rest due time (R100). FLOOR-CLEAR is refused unless the press is IDLE, and else sweeps the
RESTING and READY layers and answers their number and grams (R102). PRESS-ABORT returns a CHARGING or PRESSING press to IDLE
(R108). An idle port B makes its choice when the command has had its
effect (log 9). When a deadline is reached is counted modulo 2^32 (log 3). -/
def Obligations.FloorAndPressRequests : Prop :=
  (∀ (n : Nat) (s : State),
    let ripe (l : Layer) := l.number = n ∧ l.state = .resting ∧ ∃ d, l.restDue = some d ∧ reached d s.clock = true
    (∃ l ∈ s.cfl.layers, ripe l) → ∃ ls : List Layer,
      exec (.layerRestDue n) s = .next (startPortB (decidePress (onCfl (fun c => { c with layers := ls }) s))) ∧
      ls.length = s.cfl.layers.length ∧
      ∀ (i : Nat) (l : Layer), s.cfl.layers[i]? = some l →
        (ripe l → ls[i]? = some { l with state := .ready, restDue := none }) ∧ (¬ ripe l → ls[i]? = some l)) ∧
  (∀ (f : Frame) (s : State), WeighmasterWorks s f → Carries f 21 0 →
    (s.pru.state ≠ .idle → exec (.floorClear f) s = .next (answered f (refusal .refusedState) (asked s))) ∧
    (s.pru.state = .idle →
      let gone := s.cfl.layers.filter (fun l => decide (l.state ≠ .receiving))
      let u := gone.foldl (fun t l => sweepLayer l t) (asked s)
      exec (.floorClear f) s = .next (answered f (done (beBytes 1 gone.length ++ beBytes 4 (sat32 (lotGrams gone)) ++
        beBytes 4 (sat32 (unassignedGrams gone)))) (grantTest (decidePress u))) ∧
      u.cfl = { s.cfl with layers := s.cfl.layers.filter (fun l => decide (l.state = .receiving)) } ∧
      u.kilns = s.kilns ∧ u.kfr = s.kfr ∧ u.uar = s.uar)) ∧
  ∀ (f : Frame) (s : State), OperatorWorks s f → Carries f 22 0 →
    ((s.pru.state = .idle ∨ s.pru.state = .weighing) →
      exec (.pressAbort f) s = .next (answered f (refusal .refusedState) (asked s))) ∧
    ((s.pru.state = .charging ∨ s.pru.state = .pressing) → exec (.pressAbort f) s = .next (answered f (done [])
      (decidePress (onPru (fun b => { b with state := .idle, chargeStart := none, tie := none, settle := none }) (asked s)))))

/-- The press's settle deadline closes the bale at the scale's held value, 0 when it is not LIVE or negative (R110): its record
(R111, R114, R115), the draws from the head layer and the one behind it (R113), the bale number, and the log of 96 (R116). An
idle port B makes its choice when the command has had its effect (log 9). When a deadline is reached is counted modulo 2^32 (log
3). -/
def Obligations.BaleCloseAtTheSettleDeadline : Prop :=
  (∀ (s : State) (d : Time), s.pru.state = .weighing → s.pru.settle = some d → reached d s.clock = true →
    (configLive s s.mgu.config.pressScale = false → exec .pressSettleDeadline s = .next (startPortB (closeBale 0 true s))) ∧
    (configLive s s.mgu.config.pressScale = true →
      exec .pressSettleDeadline s = .next (startPortB (closeBale (heldValue s s.mgu.config.pressScale).toNat true s)))) ∧
  (∀ (gross : Nat) (unsettled : Bool) (s : State),
    let b := closedBale gross unsettled s
    let c := s.mgu.config
    let d := draws b.net s.cfl.layers
    b.number = s.pru.nextBale ∧ b.gross = gross ∧ b.net = gross - c.baleTare ∧
    b.close = ⟨s.clock, validTime s⟩ ∧
    (b.flags.short = true ↔ b.net < c.baleTarget - c.baleTolerance) ∧
    (b.flags.offweight = true ↔ b.net * 100 < 40 * c.baleTarget ∨ 160 * c.baleTarget < b.net * 100) ∧
    b.flags.unsettled = unsettled ∧ (b.flags.bookShort = true ↔ d.1 + d.2 < b.net) ∧
    b.moisture = (if d.1 = 0 ∧ d.2 = 0 then c.reference else
      let m1 := moistureAt s.cfl.layers 0
      let m2 := moistureAt s.cfl.layers 1
      let last := if 0 < d.2 then m2 else m1
      roundHalfUp (d.1 * m1 + d.2 * m2 + (b.net - d.1 - d.2) * last) b.net) ∧
    (∀ l ∈ s.cfl.layers.head?, moistureAt s.cfl.layers 0 = l.moisture) ∧
    (∀ l ∈ s.cfl.layers[1]?, moistureAt s.cfl.layers 1 = l.moisture) ∧
    let t := logBale b s
    t.pru.nextBale = nextInSequence 65535 s.pru.nextBale ∧
    (s.pru.log.length < 96 → t.pru.log = s.pru.log ++ [b]) ∧
    (96 ≤ s.pru.log.length → t.pru.log = s.pru.log.tail ++ [b])) ∧
  ∀ (b : Nat) (l m : Layer) (rest : List Layer),
    draws b [] = (0, 0) ∧
    (l.state ≠ .ready → draws b (l :: rest) = (0, 0)) ∧
    (l.state = .ready → b ≤ l.remaining → draws b (l :: rest) = (b, 0)) ∧
    (l.state = .ready → l.remaining < b → draws b [l] = (l.remaining, 0)) ∧
    (l.state = .ready → l.remaining < b → m.state ≠ .ready → draws b (l :: m :: rest) = (l.remaining, 0)) ∧
    (l.state = .ready → l.remaining < b → m.state = .ready →
      draws b (l :: m :: rest) = (l.remaining, min (b - l.remaining) m.remaining))

/-! ### Job requests: tickets (R143 to R146) -/

/-- TICKET-CREDIT in both modes (R143), TICKET-STOP and TICKET-RUN (R144), TICKET-REWIND (R146) and TICKET-RELEASE (R145), each with
the tests it ends in and the data of its reply. A mode byte above 1 is OUT-OF-RANGE (R191, log 28). An idle port B makes its
choice when the command has had its effect (log 9). -/
def Obligations.TicketRequests : Prop :=
  ∀ (f : Frame) (s : State),
    let tests (u : State) := offerTest (exhaustedTest u)
    let credits (n : Nat) := onTku (fun b => { b with credits := n }) (asked s)
    let emptied (u : State) := onRlu (fun r => { r with slot := none }) u
    (OperatorWorks s f →
      (asks f 23 = true → argsLength f 2 = true →
        (arg f 0 1 = 0 → exec (.ticketCreditAdd f) s = .next (answered f
          (done [BitVec.ofNat 8 (min 255 (s.tku.credits + arg f 1 1))]) (tests (credits (min 255 (s.tku.credits + arg f 1 1)))))) ∧
        (1 < arg f 0 1 → exec (.ticketCreditAdd f) s = .next (answered f (refusal .outOfRange) (asked s))) ∧
        (arg f 0 1 = 1 → arg f 1 1 = 0 → exec (.ticketCreditSet f) s =
          .next (answered f (done [0]) (tests (emptied (credits 0))))) ∧
        (arg f 0 1 = 1 → arg f 1 1 ≠ 0 → exec (.ticketCreditSet f) s =
          .next (answered f (done [BitVec.ofNat 8 (arg f 1 1)]) (tests (credits (arg f 1 1)))))) ∧
      (Carries f 24 0 → exec (.ticketStop f) s =
        .next (answered f (done []) (emptied (onTku (fun b => { b with run := false }) (asked s))))) ∧
      (Carries f 25 0 →
        (s.tku.run = true → exec (.ticketRun f) s = .next (answered f (done []) (asked s))) ∧
        (s.tku.run = false → exec (.ticketRun f) s =
          .next (answered f (done []) (tests (onTku (fun b => { b with run := true }) (asked s)))))) ∧
      (Carries f 26 0 → exec (.ticketRewind f) s = .next (answered f
        (done [BitVec.ofNat 8 (s.tku.queue.filter (fun t => decide (t.state ≠ .sendable))).length])
        (tests (emptied (onTku (fun b => { b with queue := b.queue.map (fun t => { t with state := .sendable, next := 0 }) })
          (asked s))))))) ∧
    (WeighmasterWorks s f → Carries f 27 2 →
      let n := arg f 0 2
      (n = 0 → exec (.ticketRelease f) s = .next (answered f (refusal .outOfRange) (asked s))) ∧
      (n ≠ 0 → (∀ t ∈ s.tku.queue, t.serial ≠ n) →
        exec (.ticketRelease f) s = .next (answered f (refusal .notFound) (asked s))) ∧
      ∀ l t r, n ≠ 0 → s.tku.queue = l ++ t :: r → t.serial = n → (∀ x ∈ l, x.serial ≠ n) →
        (t.state ≠ .sent → exec (.ticketRelease f) s = .next (answered f (refusal .refusedState) (asked s))) ∧
        (t.state = .sent → (∀ x ∈ r, x.serial ≠ n) →
          let u := onTku (fun b => { b with queue := l ++ r }) (asked s)
          exec (.ticketRelease f) s = .next (answered f (done [BitVec.ofNat 8 (freeBlocks u)]) (buildTest u))))

/-! ### The press permit (R120, R121) -/

/-- The press permit and its hold cause, by the first case of the table of R120 that holds, with the horizon over the two oldest
layers. The permit decided again is stored with its cause, and PRESS-HOLD is posted when it enters HOLD from GO or SLOW, with the
lot of the first full share for REFS-FULL and with no lot for another cause (R121). -/
def Obligations.PressPermitByItsTable : Prop :=
  ∀ s : State,
    let full (sh : Share) := 0 < sh.grams ∧ ∃ i l, sh.slot = some i ∧ lotAt s i = some l ∧ l.flags.refsFull = true
    let shares := (horizonLayers s).flatMap (·.shares)
    let c := s.mgu.config
    let limit := min (c.baleTarget + c.baleTolerance) (horizon s)
    let charge := (heldValue s c.pressCharge).toNat
    let live := s.mgu.configValid = true ∧ isLive s c.pressCharge = true
    (s.cfl.layers = [] → horizonLayers s = []) ∧
    (∀ l rest, s.cfl.layers = l :: rest →
      (l.state ≠ .ready → horizonLayers s = []) ∧
      (l.state = .ready → (∀ m ∈ rest.head?, m.state ≠ .ready) → horizonLayers s = [l]) ∧
      ∀ m more, l.state = .ready → rest = m :: more → m.state = .ready → horizonLayers s = [l, m]) ∧
    horizon s = ((horizonLayers s).map (·.remaining)).sum ∧
    (started s = false → pressDecision s = (.hold, some .notStarted)) ∧
    (started s = true →
      ((s.pru.state = .pressing ∨ s.pru.state = .weighing) → pressDecision s = (.hold, some .cycle)) ∧
      ((s.pru.state = .idle ∨ s.pru.state = .charging) → (∃ sh ∈ shares, full sh) → pressDecision s = (.hold, some .refsFull)) ∧
      (s.pru.state = .idle → (∀ sh ∈ shares, ¬ full sh) →
        (horizon s = 0 → pressDecision s = (.hold, some .noHorizon)) ∧
        (horizon s ≠ 0 → c.baleTarget ≤ horizon s → pressDecision s = (.go, none)) ∧
        (horizon s ≠ 0 → horizon s < c.baleTarget → pressDecision s = (.slow, none))) ∧
      (s.pru.state = .charging → (∀ sh ∈ shares, ¬ full sh) →
        (¬ live → pressDecision s = (.hold, some .chargeChannel)) ∧
        (live → limit ≤ charge → pressDecision s = (.hold, some .chargeLimit)) ∧
        (live → charge < limit → limit - charge < c.pressSlowBand → pressDecision s = (.slow, none)) ∧
        (live → charge < limit → c.pressSlowBand ≤ limit - charge → pressDecision s = (.go, none)))) ∧
    let d := pressDecision s
    let stored := onPru (fun p => { p with permit := d.1, cause := d.2 }) s
    ((d.1 ≠ .hold ∨ s.pru.permit = .hold) → decidePress s = stored) ∧
    (d.1 = .hold → s.pru.permit ≠ .hold →
      (d.2 ≠ some .refsFull → decidePress s = postEvent .pressHold noContext stored) ∧
      ∀ before sh behind, d.2 = some .refsFull → shares = before ++ sh :: behind → full sh → (∀ x ∈ before, ¬ full x) →
        decidePress s = postEvent .pressHold ⟨none, some sh.lotNumber, none, none⟩ stored)

/-! ### The unload grant (R89 to R93, R99) -/

/-- The grant test, on the head of the request list alone: with no grant record, fewer than 16 layers and room for the head's
net the conveyor is granted (R91), with the record of R90, the RECEIVING layer of R99 and the kiln UNLOADING (R92), and the
command of R93. That a layer number still listed is passed over is the model's reading of R99 (log 37). -/
def Obligations.UnloadGrantToTheHeadKiln : Prop :=
  (∀ s : State,
    (s.uar.requests = [] → grantTest s = s) ∧
    ∀ k rest, s.uar.requests = k :: rest →
      let net := (heldValue s (setupOf s k).scale - (loadOf s k).tare).toNat
      let kl := s.kilns.get k
      let numbers := s.cfl.layers.map (·.number)
      ((s.uar.grant ≠ none ∨ 16 ≤ s.cfl.layers.length ∨ s.mgu.config.floorCapacity < floorBook s + net) → grantTest s = s) ∧
      (s.uar.grant = none → s.cfl.layers.length < 16 → floorBook s + net ≤ s.mgu.config.floorCapacity →
        ∃ (n : Nat) (u : State), grantTest s = postConveyor 1000 u ∧
          n ∉ numbers ∧ (s.cfl.nextNumber ∉ numbers → n = s.cfl.nextNumber) ∧
          u.uar = ⟨rest, some ⟨k, n, net, kl.estimate, s.clock, some (after s.clock (60000 * s.mgu.config.unloadTimeout)), none⟩⟩ ∧
          u.cfl = ⟨s.cfl.layers ++ [⟨n, k, (loadOf s k).serial.getD 0, .receiving, net, 0, 0, kl.estimate, [], none, none,
            kl.forced⟩], if 255 ≤ n then 1 else n + 1⟩ ∧
          u.kilns.get k = { kl with state := .unloading, evalDeadline := none, overdry := none } ∧
          (∀ j, j ≠ k → u.kilns.get j = s.kilns.get j) ∧ u.kfr = s.kfr ∧ u.itk.lots = s.itk.lots ∧
          u.pru.state = s.pru.state ∧ u.pru.log = s.pru.log ∧ u.channels = s.channels ∧
          floorBook u ≤ s.mgu.config.floorCapacity ∧ (floorBook s + net < 2 ^ 64 → floorBook u = floorBook s + net))) ∧
  (∀ (v : Nat) (s : State),
    (actuatorFor s .unloadConveyor = none → postConveyor v s = s) ∧
    ∀ a, actuatorFor s .unloadConveyor = some a → postConveyor v s = postCommand ⟨a.node, a.number, v⟩ s) ∧
  ∀ (f : ActuatorFunction) (s : State),
    ((∀ a ∈ s.actuators.cells, a.valid = true → a.function ≠ f) → actuatorFor s f = none) ∧
    ∀ l a r, s.actuators.cells = l ++ a :: r → a.valid = true → a.function = f →
      (∀ x ∈ l, x.valid = true → x.function ≠ f) → actuatorFor s f = some a

/-! ### Holds, commands and the load check (R69, R74, R80) -/

/-- A cause takes a DRYING kiln into HELD with KILN-HELD, joins the causes of a HELD one, and passes any other over (R77 to R80).
The commands of each occasion, posted to a bound burner and fan alone (R74). The load mismatch check of a drying start (R69), and
the evaluation timer set E seconds on (R70). -/
def Obligations.KilnHoldsCommandsAndTheLoadCheck : Prop :=
  (∀ (k : Fin 4) (cause : HoldCauses) (s : State),
    (∀ i, (s.kilns.get k).state = .drying i → ∃ u, holdKiln k cause s = postEvent .kilnHeld (kilnContext k) (postHeld k i u) ∧
      u.kilns.get k = { s.kilns.get k with state := .held i, causes := cause, debounce := 0 } ∧
      (∀ j, j ≠ k → u.kilns.get j = s.kilns.get j) ∧ u.kfr = s.kfr ∧ u.itk.lots = s.itk.lots ∧ u.uar = s.uar ∧ u.cfl = s.cfl ∧
      u.pru = s.pru) ∧
    (∀ i, (s.kilns.get k).state = .held i → holdKiln k cause s = modifyKiln k (fun kl => { kl with causes :=
      ⟨kl.causes.plenum || cause.plenum, kl.causes.overtemp || cause.overtemp, kl.causes.operator || cause.operator⟩ }) s) ∧
    ((∀ i, (s.kilns.get k).state ≠ .drying i) → (∀ i, (s.kilns.get k).state ≠ .held i) → holdKiln k cause s = s)) ∧
  (∀ (k : Fin 4) (v : Nat) (s : State),
    let b := s.actuators.getD (setupOf s k).burner Actuator.powerOn
    let f := s.actuators.getD (setupOf s k).fan Actuator.powerOn
    let burns := b.valid = true ∧ b.function = .burner ∧ b.kiln = k
    let blows := f.valid = true ∧ f.function = .fan ∧ f.kiln = k
    (burns → postBurner k v s =
      postCommand ⟨b.node, b.number, v⟩ (modifyKiln k (fun kl => { kl with burnerBound := true, lastBurner := some v }) s)) ∧
    (¬ burns → postBurner k v s = modifyKiln k (fun kl => { kl with burnerBound := false }) s) ∧
    (blows → postFan k v s =
      postCommand ⟨f.node, f.number, v⟩ (modifyKiln k (fun kl => { kl with fanBound := true, lastFan := some v }) s)) ∧
    (¬ blows → postFan k v s = modifyKiln k (fun kl => { kl with fanBound := false }) s)) ∧
  (∀ (k : Fin 4) (i : Nat) (s : State),
    let kl := s.kilns.get k
    let e := setupOf s k
    (∀ r st, kl.running = some r → r.copy.stages[i - 1]? = some st →
      postDrying k i s = postFan k st.fan (postBurner k (max 0 (min kl.setpoint (e.ceiling : Int))).toNat s) ∧
      postHeld k i s = postFan k st.fan (postBurner k 0 s)) ∧
    postEndpoint k s = postFan k e.holdFan (postBurner k 0 s) ∧
    armTimer k s = modifyKiln k (fun kl => { kl with evalDeadline := some (after s.clock (1000 * s.mgu.config.evalInterval)) }) s) ∧
  ∀ (k : Fin 4) (s : State),
    let e := setupOf s k
    let net := (heldValue s e.scale - (loadOf s k).tare).toNat
    let green := greenTotal (loadOf s k)
    let gap := ((net : Int) - green).natAbs
    (isLive s e.scale = false → mismatchCheck k s = postEvent .scaleSuspect (kilnContext k) (markSuspect k s)) ∧
    (isLive s e.scale = true → s.mgu.config.mismatch * green < gap * 1000 →
      mismatchCheck k s = postEvent .loadMismatch (kilnContext k) (markSuspect k s)) ∧
    (isLive s e.scale = true → gap * 1000 ≤ s.mgu.config.mismatch * green → mismatchCheck k s = s)

/-! ### Filling, closing and LOADED (R34, R50, R52, R54) -/

/-- A carry first makes the selection test when no kiln is FILLING, and is then placed by the table (R50). A carry credited to a
FILLING kiln clears the spill-run marker (R51) and tests the capacity close and the low-room close (R52). A contribution
increased has its dry formed from its whole green (R50). The entry into LOADED, with the kiln references, the autostart and the
selection test (R54). That the values last posted are forgotten there is the model's choice (log 23). -/
def Obligations.FillingClosesAndLoads : Prop :=
  (∀ (slot : Fin 32) (l : Lot) (grams : Nat) (s : State), lotAt s slot = some l →
    (fillingKiln s = none → placeCarry slot grams s = placeByTable 2 slot l grams (selectKiln s)) ∧
    (fillingKiln s ≠ none → placeCarry slot grams s = placeByTable 2 slot l grams s)) ∧
  (∀ (k : Fin 4) (f : LoadRecord → LoadRecord) (s : State),
    creditFilling k f s = lowRoomClose (capacityClose k (decideFeed (creditLoad k f s))) ∧
    (creditLoad k f s).kfr.loads.get k = f (loadOf s k) ∧ (creditLoad k f s).kfr.spillRun = none ∧
    (∀ j, j ≠ k → loadOf (creditLoad k f s) j = loadOf s j) ∧
    creditLoad k f s = onKfr (fun b => { b with loads := (creditLoad k f s).kfr.loads, spillRun := none }) s) ∧
  (∀ (k : Fin 4) (s : State),
    let green := min ((loadOf s k).contributions.map (·.green)).sum 4294967295
    let cap := (setupOf s k).greenCapacity
    (cap ≤ green → capacityClose k s = enterLoaded k s) ∧ (green < cap → capacityClose k s = s) ∧
    (fillingKiln s = none → lowRoomClose s = s) ∧
    (fillingKiln s = some k → (∃ j, eligible s j = true) → lowRoomClose s = s) ∧
    (fillingKiln s = some k → (∀ j, eligible s j = false) →
      (cap - green < s.mgu.config.feedQuantum → lowRoomClose s = enterLoaded k s) ∧
      (s.mgu.config.feedQuantum ≤ cap - green → lowRoomClose s = s))) ∧
  (∀ (slot : Fin 32) (grams : Nat) (r : LoadRecord),
    growContribution slot grams r = { r with contributions := (growContribution slot grams r).contributions } ∧
    (growContribution slot grams r).contributions.length = r.contributions.length ∧
    ∀ (i : Nat) (c : Contribution), r.contributions[i]? = some c →
      (c.slot ≠ some slot → (growContribution slot grams r).contributions[i]? = some c) ∧
      (c.slot = some slot → (growContribution slot grams r).contributions[i]? =
        some { c with green := min (c.green + grams) 4294967295, dry := min (c.green + grams) 4294967295 * (1000 - c.w) / 1000 })) ∧
  ∀ (k : Fin 4) (s : State), ∃ u v : State,
    u.kilns.get k = { s.kilns.get k with state := .loaded, lastBurner := none, lastFan := none } ∧
    (∀ j, j ≠ k → u.kilns.get j = s.kilns.get j) ∧ u.kfr = s.kfr ∧ u.itk.lots = s.itk.lots ∧ u.uar = s.uar ∧ u.cfl = s.cfl ∧
    v = (loadOf s k).contributions.foldl (fun t c => updateSlot c.slot (fun l => { l with kilnRefs := l.kilnRefs + 1 }) t) u ∧
    let e := setupOf s k
    let ready := e.autostart = true ∧ e.recipe ≠ 0 ∧ (s.rct.recipes.getD (e.recipe - 1) ⟨0, []⟩).stages ≠ []
    (ready → enterLoaded k s = selectKiln (startDrying k v)) ∧ (¬ ready → enterLoaded k s = selectKiln v)

/-! ### Updates to lots and the completion test (R39, R40) -/

/-- An update is applied to the live record of its slot, and the completion test follows; a lot that meets the test goes COMPLETE
and its FINAL entry joins the wait list, with the build test (R39, R40, R127). What each posted update does to the record (R39),
and which updates an unload completion (R96), a floor clear (R102), a forced end (R82) and a suspect scale (R71) post. That an
update of a free slot has no effect is the model's choice (log 24). -/
def Obligations.LotUpdatesAndTheCompletionTest : Prop :=
  (∀ (i : Fin 32) (f : Lot → Lot) (s : State),
    updateSlot none f s = s ∧ updateSlot (some i) f s = updateLot i f s ∧
    (lotAt s i = none → updateLot i f s = s) ∧
    ∀ l, lotAt s i = some l → updateLot i f s = completionTest i (setLot i (some (f l)) s)) ∧
  (∀ (i : Fin 32) (l : Lot) (s : State), lotAt s i = some l →
    let ends := l.state = .inProcess ∧ l.kilnRefs = 0 ∧ l.floorMass = 0 ∧
      ∀ k, fillingKiln s = some k → ∀ c ∈ (loadOf s k).contributions, c.slot ≠ some i
    (¬ ends → completionTest i s = s) ∧
    (ends → completionTest i s = buildTest (onTku (fun t => { t with waitList := t.waitList ++ [⟨i, l.number, .final⟩] })
      (setLot i (some { l with state := .complete }) s)))) ∧
  (∀ (l : Lot) (n m : Nat),
    addSpill n l = { l with spill := min (l.spill + n) 4294967295, flags := { l.flags with spill := true } } ∧
    addKilnRef l = { l with kilnRefs := l.kilnRefs + 1 } ∧
    retire n m l = { l with
      greenUnloaded := min (l.greenUnloaded + n) 4294967295, kilnRefs := l.kilnRefs - 1
      floorMass := min (l.floorMass + m) 4294967295 } ∧
    sweep n l = { l with
      floorMass := l.floorMass - n, sweepLoss := min (l.sweepLoss + n) 4294967295, flags := { l.flags with swept := true } }) ∧
  (∀ (share bale moisture : Nat) (b : BaleFlags) (l : Lot),
    let t := addBaleShare share bale moisture b l
    t = { l with
      floorMass := l.floorMass - share, refs := t.refs, baledMass := min (l.baledMass + share) 4294967295
      drySum := min (l.drySum + share * (1000 - moisture)) (2 ^ 64 - 1)
      flags := { l.flags with
        shortBale := l.flags.shortBale || b.short, unsettled := l.flags.unsettled || b.unsettled
        bookShort := l.flags.bookShort || b.bookShort, refsFull := t.flags.refsFull } } ∧
    (l.refs.length < 48 → t.refs = l.refs ++ [⟨bale, share, moisture⟩] ∧ t.flags.refsFull = l.flags.refsFull) ∧
    (48 ≤ l.refs.length → t.refs = l.refs ∧ t.flags.refsFull = true)) ∧
  (∀ (c : Contribution) (p : Nat) (ps : List (Contribution × Nat)) (s : State),
    retireAll [] s = s ∧ retireAll ((c, p) :: ps) s = retireAll ps (updateSlot c.slot (retire c.green p) s)) ∧
  (∀ (l : Layer) (s : State), ∃ u, u = l.shares.foldl (fun t sh => if 0 < sh.grams then updateSlot sh.slot (sweep sh.grams) t else t) s ∧
    sweepLayer l s =
      setLayers (u.cfl.layers.filter (fun m => !decide (m.number = l.number ∧ m.state ≠ .receiving))) u) ∧
  ∀ (k : Fin 4) (s : State),
    let each (f : LotFlags → LotFlags) (t : State) :=
      (loadOf s k).contributions.foldl (fun t c => updateSlot c.slot (fun l => { l with flags := f l.flags }) t) t
    markForced k s = each (fun f => { f with forced := true }) (modifyKiln k (fun kl => { kl with forced := true }) s) ∧
    markSuspect k s = each (fun f => { f with scaleSuspect := true }) (setLoad k { loadOf s k with suspect := true } s)

/-! ### Tickets built, offered and sent (R126 to R142) -/

/-- The build test (R128): an empty wait list clears the blocked indicator; a head whose ticket has room is built, and the new
head is tested at once; a head without room brings one STORE-FULL while the indicator is clear (R135), with a cause that holds
(which of two is open, log 35). Where a PART entry is placed, and what the TKU answers (R127). A head without a live record is
no lot of a run (log 24). -/
def Obligations.BuildTestTakesTheHead : Prop :=
  (∀ s : State,
    (s.tku.waitList = [] → buildTest s = onTku (fun t => { t with blocked := false }) s) ∧
    ∀ e rest l, s.tku.waitList = e :: rest → lotAt s e.slot = some l →
      let needs := 1 + (l.refs.length + 7) / 8
      let room := s.tku.queue.length < 32 ∧ needs ≤ freeBlocks s
      (room → buildTest s = buildTest (build e rest l s)) ∧
      (¬ room → s.tku.blocked = true → buildTest s = s) ∧
      (¬ room → s.tku.blocked = false → ∃ (cause : Nat) (choices : List Nat),
        buildTest s = postEvent .storeFull ⟨none, some e.lotNumber, none, some cause⟩
          (onTku (fun t => { t with blocked := true }) { s with sched := choices }) ∧
        ((cause = 1 ∧ freeBlocks s < needs) ∨ (cause = 2 ∧ 32 ≤ s.tku.queue.length)))) ∧
  (∀ s : State, freeBlocks s = 64 - (s.tku.queue.map (fun t => 1 + (t.entries.length + 7) / 8)).sum) ∧
  (∀ (e : WaitEntry) (ws : List WaitEntry),
    ((∀ w ∈ ws, ¬ (w.slot = e.slot ∧ w.kind = .final)) → placePart e ws = ws ++ [e]) ∧
    ∀ l w r, ws = l ++ w :: r → (∀ x ∈ l, ¬ (x.slot = e.slot ∧ x.kind = .final)) → w.slot = e.slot → w.kind = .final →
      placePart e ws = l ++ e :: w :: r) ∧
  ∀ (slot : Fin 32) (n : Nat) (s : State),
    ((∀ l, lotAt s slot = some l → l.number ≠ n) → partRequest slot n s = (s, true)) ∧
    ∀ l, lotAt s slot = some l → l.number = n → ∃ (t : State) (built : Bool), partRequest slot n s = (t, built) ∧
      t = buildTest (onTku (fun b => { b with waitList := placePart ⟨slot, n, .part⟩ b.waitList }) s) ∧
      (built = true ↔ (⟨slot, n, .part⟩ : WaitEntry) ∉ t.tku.waitList)

/-- A build (R130): the ticket that joins the queue, with its serial, header (R131, R133) and bale entries (R132), the entry that
leaves the wait list, TICKET-READY, and the update of the lot (R134), with the completion test of a part ticket's lot (R40), the
permit at a cleared REFS-FULL (R121), and the report to the PRU (R127). That the part count holds at 65535 is the model's
choice (log 29). -/
def Obligations.BuildOfATicket : Prop :=
  (∀ (e : WaitEntry) (rest : List WaitEntry) (l : Lot) (s : State),
    let t := builtTicket e l s
    let joined := onTku (fun b => { b with
      queue := b.queue ++ [t], nextSerial := if 65535 ≤ t.serial then 1 else t.serial + 1, waitList := rest, blocked := false }) s
    let posted (u : State) := postEvent .ticketReady ⟨none, some e.lotNumber, some t.serial, none⟩ u
    (e.kind = .final → build e rest l s = offerTest (exhaustedTest (posted (setLot e.slot none joined)))) ∧
    (e.kind = .part → ∃ u,
      build e rest l s = offerTest (exhaustedTest (onPru (fun p => { p with
        waiting := p.waiting.filter (fun w => decide (w.1 ≠ e.slot)) }) (posted (if l.flags.refsFull then decidePress u else u)))) ∧
      let emptied : Lot := { l with
        refs := [], baledMass := 0, drySum := 0, partCount := min (l.partCount + 1) 65535
        flags := { l.flags with refsFull := false, untimed := l.flags.untimed || (validTime s).isNone } }
      let ends := l.state = .inProcess ∧ l.kilnRefs = 0 ∧ l.floorMass = 0 ∧
        ∀ k, fillingKiln s = some k → ∀ c ∈ (loadOf s k).contributions, c.slot ≠ some e.slot
      (¬ ends → u = setLot e.slot (some emptied) joined) ∧
      (ends → u = onTku (fun b => { b with waitList := b.waitList ++ [⟨e.slot, l.number, .final⟩] })
        (setLot e.slot (some { emptied with state := .complete }) joined)))) ∧
  ∀ (e : WaitEntry) (l : Lot) (s : State),
    let t := builtTicket e l s
    let held := s.tku.queue.map (·.serial)
    let r := s.mgu.config.reference
    t.kind = e.kind ∧ t.state = .sendable ∧ t.next = 0 ∧
    (s.tku.queue.length < 65535 → t.serial ∉ held) ∧ (s.tku.nextSerial ∉ held → t.serial = s.tku.nextSerial) ∧
    t.header.kind = e.kind ∧ t.header.buildTime = validTime s ∧ t.header.lotNumber = l.number ∧ t.header.grower = l.grower ∧
    t.header.variety = l.variety ∧ t.header.openTime = l.openTime ∧ t.header.hookEndTime = l.hookEndTime ∧
    t.header.hookTarget = l.hookTarget ∧ t.header.hooks = l.hooks ∧ t.header.reference = r ∧
    t.header.flags = { l.flags with untimed := l.flags.untimed || (validTime s).isNone } ∧
    t.header.baledMass = tenths l.baledMass ∧ t.header.deliveredMoisture = deliveredMoisture l.baledMass l.drySum ∧
    t.header.settlementMass = tenths (settlementGrams l.drySum r) ∧
    (e.kind = .part → t.header.partCount = min (l.partCount + 1) 65535 ∧ t.header.greenFed = none ∧ t.header.spill = none ∧
      t.header.sweepLoss = none) ∧
    (e.kind = .final → t.header.partCount = l.partCount ∧ t.header.greenFed = some (tenths l.greenFed) ∧
      t.header.spill = some (tenths l.spill) ∧ t.header.sweepLoss = some (tenths l.sweepLoss)) ∧
    t.entries.length = l.refs.length ∧
    ∀ (i : Nat) (x : BaleRef), l.refs[i]? = some x →
      let shown (b : BaleRecord) := b.number = x.bale ∧ ∃ sh ∈ b.shares, sh.slot = some e.slot ∧ sh.grams = x.share
      ((∀ b ∈ s.pru.log, ¬ shown b) →
        t.entries[i]? = some ⟨x.bale, tenths x.share, x.moisture, ⟨false, false, false, false⟩, false⟩) ∧
      ∀ before b behind, s.pru.log = before ++ b :: behind → shown b → (∀ y ∈ before, ¬ shown y) →
        t.entries[i]? = some ⟨x.bale, tenths x.share, x.moisture, b.flags, true⟩

/-- The CREDIT-EXHAUSTED test (R142), the offer test with the segment it offers (R138, R139), and how a ticket moves when its
segment is inserted (R137, R140) and at a rewind (R137). That a strap outside the node range keeps the ticket slot empty is
R165. -/
def Obligations.TicketsAreOfferedAndSent : Prop :=
  (∀ s : State,
    let unsent (t : Ticket) := t.state ≠ .sent
    (0 < s.tku.credits → exhaustedTest s = onTku (fun b => { b with exhausted := false }) s) ∧
    ((∀ t ∈ s.tku.queue, ¬ unsent t) → s.tku.credits = 0 → exhaustedTest s = s) ∧
    ((∀ t ∈ s.tku.queue, ¬ unsent t) → offerTest s = s) ∧
    ((s.tku.run = false ∨ s.tku.credits = 0 ∨ s.rlu.slot ≠ none ∨ strapOk s = false) → offerTest s = s) ∧
    ∀ l t r, s.tku.queue = l ++ t :: r → unsent t → (∀ x ∈ l, ¬ unsent x) →
      (s.tku.credits = 0 → (s.tku.run = false ∨ s.tku.exhausted = true) → exhaustedTest s = s) ∧
      (s.tku.credits = 0 → s.tku.run = true → s.tku.exhausted = false → exhaustedTest s =
        postEvent .creditExhausted ⟨none, none, some t.serial, none⟩ (onTku (fun b => { b with exhausted := true }) s)) ∧
      (s.tku.run = true → 1 ≤ s.tku.credits → s.rlu.slot = none → strapOk s = true → ∃ seg,
        offerTest s = onRlu (fun b => { b with slot := some seg }) s ∧
        seg.serial = t.serial ∧ seg.index = t.next ∧ seg.count = 1 + (t.entries.length + 7) / 8 ∧
        (t.next = 0 → seg.body = ticketHeaderBytes t.header t.entries.length) ∧
        (t.next ≠ 0 → seg.body = ((t.entries.drop (8 * (t.next - 1))).take 8).flatMap ticketEntryBytes))) ∧
  ∀ t : Ticket,
    (t.next + 1 < 1 + (t.entries.length + 7) / 8 → advanced t = { t with state := .sending, next := t.next + 1 }) ∧
    (1 + (t.entries.length + 7) / 8 ≤ t.next + 1 → advanced t = { t with state := .sent }) ∧
    rewound t = { t with state := .sendable, next := 0 }

/-! ### The bale close (R112 to R119) -/

/-- The shares of a bale (R114): each draw is split over its layer's shares; a lot share for each lot drawn from, by slot and
number, with the sum of its parts from both layers, in the order of first appearance and none of 0; and the UNASSIGNED share,
the parts of the layers' UNASSIGNED shares and the excess, none of 0. That a part of 0 keeps its lot's place in that order is
the model's choice (log 38). The numbers of the layers drawn from stand in the record (R116).
A bale close (R112): the record joins the log and the draws leave the floor, each lot share's update is applied (R117), the
occurrences are posted (R119), the press is IDLE with no bale in progress, part-ticket requests are made for the lots that call
for one (R118), and the permit is decided, with the grant test when the floor book has fallen. That the requests come in share
order is the model's choice (log 46). -/
def Obligations.BaleClosePostsSharesAndIdles : Prop :=
  (∀ (gross : Nat) (unsettled : Bool) (s : State),
    let b := closedBale gross unsettled s
    let d := draws b.net s.cfl.layers
    let parts := drawnParts d s.cfl.layers
    let lot (sh : Share) := (sh.slot, sh.lotNumber)
    let partsOf (x : Option (Fin 32) × Nat) := (parts.filter (fun p => decide (lot p.1 = x))).map (·.2) |>.sum
    (s.cfl.layers = [] → parts = []) ∧
    (∀ l, s.cfl.layers = [l] → parts = l.shares.zip (drawParts d.1 l.shares)) ∧
    (∀ l m r, s.cfl.layers = l :: m :: r →
      parts = l.shares.zip (drawParts d.1 l.shares) ++ m.shares.zip (drawParts d.2 m.shares)) ∧
    (∀ (n : Nat) (shares : List Share), (∃ sh ∈ shares, 0 < sh.grams) → split n (shares.map (·.grams)) = some (drawParts n shares)) ∧
    (let first (sh : Share) := (parts.map (fun p => lot p.1)).idxOf (lot sh)
     b.shares.Pairwise (fun x y => first x < first y)) ∧
    (∀ sh ∈ b.shares, sh.slot ≠ none ∧ 0 < sh.grams ∧ sh.grams = partsOf (lot sh)) ∧
    (∀ p ∈ parts, p.1.slot ≠ none → 0 < partsOf (lot p.1) → lot p.1 ∈ b.shares.map lot) ∧
    (let un := (parts.filter (fun p => decide (p.1.slot = none))).map (·.2) |>.sum
     b.unassigned = if un + (b.net - d.1 - d.2) = 0 then none else some (un + (b.net - d.1 - d.2))) ∧
    (FloorInv s → (b.shares.map (·.grams)).sum + b.unassigned.getD 0 = b.net) ∧
    b.drawn = ((s.cfl.layers.take 2).zip [d.1, d.2]).filterMap (fun p => if 0 < p.2 then some p.1.number else none)) ∧
  ((∀ (gross : Nat) (unsettled : Bool) (s : State),
    let b := closedBale gross unsettled s
    let d := draws b.net s.cfl.layers
    let logged := logBale b s
    logged = { s with cfl := { s.cfl with layers := drawLayers d s.cfl.layers }, pru := logged.pru } ∧
    ∃ (t u : State) (wants : List (Fin 32 × Nat)), postShares b b.shares logged = (t, wants) ∧
      u = onPru (fun p => { p with state := .idle, chargeStart := none, tie := none, settle := none })
        (if b.flags.bookShort then postEvent .bookShort ⟨none, none, some b.number, none⟩
            (postEvent .baleClosed ⟨none, none, some b.number, none⟩ t)
          else postEvent .baleClosed ⟨none, none, some b.number, none⟩ t) ∧
      let w := decidePress (wants.foldl (fun x p => requestPart p x) u)
      (0 < d.1 + d.2 → closeBale gross unsettled s = grantTest w) ∧
      (d.1 + d.2 = 0 → closeBale gross unsettled s = w)) ∧
  (∀ (b : BaleRecord) (sh : Share) (shs : List Share) (s : State),
    postShares b [] s = (s, []) ∧
    (sh.slot = none → postShares b (sh :: shs) s = postShares b shs s) ∧
    ∀ i, sh.slot = some i →
      let full (t : State) := ∃ l, lotAt t i = some l ∧ l.flags.refsFull = true
      ∃ t : State,
        let applied := updateLot i (addBaleShare sh.grams b.number b.moisture b.flags) s
        ((full s ↔ full applied) → t = applied) ∧ (¬ (full s ↔ full applied) → t = decidePress applied) ∧
        (postShares b (sh :: shs) s).1 = (postShares b shs t).1 ∧
        ((∃ l, lotAt t i = some l ∧ l.number = sh.lotNumber ∧ l.refs.length = 48 ∧ l.state ≠ .complete) →
          (postShares b (sh :: shs) s).2 = (i, sh.lotNumber) :: (postShares b shs t).2) ∧
        ((¬ ∃ l, lotAt t i = some l ∧ l.number = sh.lotNumber ∧ l.refs.length = 48 ∧ l.state ≠ .complete) →
          (postShares b (sh :: shs) s).2 = (postShares b shs t).2)) ∧
  (∀ (w : Fin 32 × Nat) (s : State),
    (w ∈ s.pru.waiting → requestPart w s = s) ∧
    (w ∉ s.pru.waiting →
      ((partRequest w.1 w.2 s).2 = true → requestPart w s = (partRequest w.1 w.2 s).1) ∧
      ((partRequest w.1 w.2 s).2 = false → ∃ u : State,
        u = onPru (fun p => { p with waiting := p.waiting ++ [w] }) (partRequest w.1 w.2 s).1 ∧
        let full (t : State) := ∃ l, lotAt t w.1 = some l ∧ l.flags.refsFull = true
        let applied := updateLot w.1 (fun l => if l.refs.length = 48 then
          { l with flags := { l.flags with refsFull := true } } else l) u
        ((full u ↔ full applied) → requestPart w s = applied) ∧
        (¬ (full u ↔ full applied) → requestPart w s = decidePress applied)))) ∧
  ∀ (d : Nat) (l : Layer),
    (d = 0 → afterDraw d l = [l]) ∧ (0 < d → l.remaining ≤ d → afterDraw d l = []) ∧
    (0 < d → d < l.remaining → ∃ m, afterDraw d l = [m] ∧ m = { l with remaining := l.remaining - d, shares := m.shares } ∧
      m.shares.length = l.shares.length ∧
      ∀ parts, split d (l.shares.map (·.grams)) = some parts →
        ∀ (i p : Nat) (sh : Share), l.shares[i]? = some sh → parts[i]? = some p →
          m.shares[i]? = some { sh with grams := sh.grams - p }) ∧
    ∀ (e : Nat) (m : Layer) (r : List Layer), drawLayers (d, e) [] = [] ∧ drawLayers (d, e) [l] = afterDraw d l ∧
      drawLayers (d, e) (l :: m :: r) = afterDraw d l ++ afterDraw e m ++ r)
end

