-- ==== Sys2Proof/Laws/LinkOnly.lean ====
section
/-! SUPPORT. The operations that move the ring link only: occurrences, posting, forwarding, and the sending on port B. -/

namespace Sys2Proof.Machine

theorem LinkOnly.refl (s : State) : LinkOnly s s :=
  ⟨⟨rfl, rfl, rfl, rfl, rfl, rfl⟩, ⟨rfl, rfl, rfl, rfl⟩, ⟨rfl, rfl, rfl, rfl, rfl⟩, ⟨rfl, rfl, rfl, rfl⟩⟩

theorem LinkOnly.trans {s t u : State} (h : LinkOnly s t) (k : LinkOnly t u) : LinkOnly s u := by
  obtain ⟨⟨a1, a2, a3, a4, a5, a6⟩, ⟨b1, b2, b3, b4⟩, ⟨c1, c2, c3, c4, c5⟩, ⟨d1, d2, d3, d4⟩⟩ := h
  obtain ⟨⟨x1, x2, x3, x4, x5, x6⟩, ⟨y1, y2, y3, y4⟩, ⟨z1, z2, z3, z4, z5⟩, ⟨w1, w2, w3, w4⟩⟩ := k
  refine ⟨⟨x1.trans a1, x2.trans a2, x3.trans a3, x4.trans a4, x5.trans a5, x6.trans a6⟩,
    ⟨y1.trans b1, y2.trans b2, y3.trans b3, ?_⟩,
    ⟨z1.trans c1, z2.trans c2, z3.trans c3, z4.trans c4, z5.trans c5⟩,
    ⟨w1.trans d1, w2.trans d2, w3.trans d3, w4.trans d4⟩⟩
  rw [y4, b4]

/-- A change of the link that leaves the node address. -/
theorem linkOnly_onRlu (f : Rlu → Rlu) (s : State) (h : (f s.rlu).address = s.rlu.address) : LinkOnly s (onRlu f s) :=
  ⟨⟨rfl, rfl, rfl, rfl, rfl, rfl⟩, ⟨rfl, rfl, rfl, rfl⟩, ⟨rfl, rfl, rfl, rfl, rfl⟩, ⟨rfl, rfl, rfl, h⟩⟩

theorem linkOnly_withCounts (f : LinkCounts → LinkCounts) (s : State) : LinkOnly s (withCounts f s) := linkOnly_onRlu _ s rfl

/-- A change of the event cells. -/
theorem linkOnly_events (f : Mgu → Mgu) (s : State) (h : f s.mgu = { s.mgu with events := (f s.mgu).events }) :
    LinkOnly s (onMgu f s) :=
  ⟨⟨rfl, rfl, rfl, rfl, rfl, rfl⟩, ⟨rfl, rfl, rfl, h⟩, ⟨rfl, rfl, rfl, rfl, rfl⟩, ⟨rfl, rfl, rfl, rfl⟩⟩

/-- A change of the Ticket Unit that leaves what SameTickets names. -/
theorem linkOnly_onTku (f : Tku → Tku) (s : State)
    (h : (f s.tku).waitList = s.tku.waitList ∧ (f s.tku).nextSerial = s.tku.nextSerial ∧ (f s.tku).run = s.tku.run ∧
      (f s.tku).blocked = s.tku.blocked ∧ (f s.tku).queue.map ticketContents = s.tku.queue.map ticketContents) :
    LinkOnly s (onTku f s) :=
  ⟨⟨rfl, rfl, rfl, rfl, rfl, rfl⟩, ⟨rfl, rfl, rfl, rfl⟩, h, ⟨rfl, rfl, rfl, rfl⟩⟩

theorem linkOnly_postCommand (c : Command) (s : State) : LinkOnly s (postCommand c s) := by
  unfold postCommand; split
  · exact linkOnly_onRlu _ s rfl
  · exact .refl s

theorem linkOnly_postReply (r : Reply) (s : State) : LinkOnly s (postReply r s) := by
  unfold postReply; split
  · split
    · exact linkOnly_onRlu _ s rfl
    · exact linkOnly_withCounts _ s
  · exact .refl s

theorem linkOnly_postReport (r : Report) (s : State) : LinkOnly s (postReport r s) := by
  unfold postReport; split
  · split
    · exact linkOnly_onRlu _ s rfl
    · exact linkOnly_withCounts _ s
  · exact .refl s

theorem linkOnly_postEvent (kind : EventKind) (ctx : Context) (s : State) : LinkOnly s (postEvent kind ctx s) := by
  unfold postEvent
  extract_lets e s1
  have h1 : LinkOnly s s1 := linkOnly_events _ s rfl
  split
  · exact h1
  · split
    · exact h1.trans (linkOnly_postReport _ s1)
    · exact h1

theorem linkOnly_forward (f : Frame) (s : State) : LinkOnly s (forward f s) := by
  unfold forward; split
  · exact (linkOnly_onRlu _ s rfl).trans (linkOnly_withCounts _ _)
  · exact (linkOnly_withCounts _ s).trans (linkOnly_postEvent _ _ _)

theorem linkOnly_heard (s : State) : LinkOnly s (heard s) := linkOnly_onRlu _ s rfl

theorem linkOnly_taken (s : State) : LinkOnly s (taken s) := (linkOnly_heard s).trans (linkOnly_withCounts _ _)

theorem linkOnly_asked (s : State) : LinkOnly s (asked s) := (linkOnly_taken s).trans (linkOnly_withCounts _ _)

/-! ### The sending of tickets -/

theorem linkOnly_withdraw (s : State) : LinkOnly s (withdraw s) := linkOnly_onRlu _ s rfl

theorem linkOnly_offerTest (s : State) : LinkOnly s (offerTest s) := by
  unfold offerTest; split
  · split
    · exact .refl s
    · exact linkOnly_onRlu _ s rfl
  · exact .refl s

theorem linkOnly_exhaustedTest (s : State) : LinkOnly s (exhaustedTest s) := by
  unfold exhaustedTest; split
  · exact linkOnly_onTku _ s ⟨rfl, rfl, rfl, rfl, rfl⟩
  · split
    · exact .refl s
    · split
      · exact (linkOnly_onTku _ s ⟨rfl, rfl, rfl, rfl, rfl⟩).trans (linkOnly_postEvent _ _ _)
      · exact .refl s

theorem contents_advanced (t : Ticket) : ticketContents (advanced t) = ticketContents t := by
  unfold advanced; split <;> rfl

theorem linkOnly_segmentInserted (serial : Nat) (s : State) : LinkOnly s (segmentInserted serial s) := by
  refine (linkOnly_onTku _ s ⟨rfl, rfl, rfl, rfl, ?_⟩).trans ((linkOnly_exhaustedTest _).trans (linkOnly_offerTest _))
  rw [List.map_map]
  refine List.map_congr_left fun t _ => ?_
  show ticketContents (if t.serial = serial then advanced t else t) = ticketContents t
  split
  · exact contents_advanced t
  · rfl

/-! ### Port B -/

theorem linkOnly_send (f : Frame) (s : State) : LinkOnly s (send f s) := linkOnly_onRlu _ s rfl

theorem linkOnly_useFreeValue (s : State) : LinkOnly s (useFreeValue s) :=
  ⟨⟨rfl, rfl, rfl, rfl, rfl, rfl⟩, ⟨rfl, rfl, rfl, rfl⟩, ⟨rfl, rfl, rfl, rfl, rfl⟩, ⟨rfl, rfl, rfl, rfl⟩⟩

theorem linkOnly_guardValue (n m v : Nat) (s : State) : LinkOnly s (guardValue n m v s).2 := by
  unfold guardValue; split
  · split
    · exact .refl s
    · split
      · exact .refl s
      · exact linkOnly_withCounts _ s
  · exact .refl s

theorem linkOnly_passCommand (f : Frame) (s : State) : LinkOnly s (passCommand f s) := by
  unfold passCommand; split
  · split
    · exact (linkOnly_guardValue _ _ _ s).trans (linkOnly_forward _ _)
    · exact linkOnly_withCounts _ s
  · exact linkOnly_forward f s

theorem linkOnly_insertFrame (s : State) : LinkOnly s (insertFrame s) := by
  unfold insertFrame; split
  · exact ((linkOnly_onRlu _ s rfl).trans (linkOnly_guardValue _ _ _ _)).trans
      ((linkOnly_withCounts _ _).trans (linkOnly_send _ _))
  · exact ((linkOnly_onRlu _ s rfl).trans (linkOnly_withCounts _ _)).trans (linkOnly_send _ _)
  · exact ((linkOnly_onRlu _ s rfl).trans (linkOnly_withCounts _ _)).trans (linkOnly_send _ _)
  · exact (((linkOnly_useFreeValue s).trans (linkOnly_withdraw _)).trans ((linkOnly_withCounts _ _).trans (linkOnly_send _ _))).trans
      (linkOnly_segmentInserted _ _)
  · exact .refl s

theorem linkOnly_setStarvation (n : Nat) (s : State) : LinkOnly s (setStarvation n s) := linkOnly_onRlu _ s rfl

theorem linkOnly_sendThrough (f : Frame) (rest : List Frame) (n : Nat) (s : State) : LinkOnly s (sendThrough f rest n s) :=
  ((linkOnly_onRlu _ s rfl).trans (linkOnly_setStarvation n _)).trans (linkOnly_send f _)

theorem linkOnly_choose (s : State) : LinkOnly s (choose s) := by
  unfold choose; split
  · split
    · exact (linkOnly_setStarvation 0 s).trans (linkOnly_insertFrame _)
    · exact .refl s
  · split
    · split
      · exact linkOnly_sendThrough _ _ _ s
      · exact (linkOnly_setStarvation 0 s).trans (linkOnly_insertFrame _)
    · exact linkOnly_sendThrough _ _ _ s

theorem linkOnly_startPortB (s : State) : LinkOnly s (startPortB s) := by
  unfold startPortB; split
  · exact linkOnly_choose s
  · exact .refl s

theorem linkOnly_answered (f : Frame) (a : Answer) (s : State) : LinkOnly s (answered f a s) :=
  (linkOnly_postReply _ s).trans (linkOnly_startPortB _)

theorem linkOnly_dropBad (s : State) : LinkOnly s (dropBad s) :=
  ((linkOnly_heard s).trans (linkOnly_withCounts _ _)).trans (linkOnly_postEvent _ _ _)

theorem linkOnly_silenceTest (s : State) : LinkOnly s (silenceTest s) := by
  unfold silenceTest; split
  · exact (linkOnly_onRlu _ s rfl).trans (linkOnly_postEvent _ _ _)
  · exact .refl s

/-! ### From a handler to its row -/

theorem linkOnly_accept (f : Frame) (handle : State → State) (h : ∀ s, LinkOnly s (handle s)) (s : State) :
    LinkOnly s (accept f handle s) := by
  show LinkOnly s (if fromOwn (taken s) f then _ else handle (taken s))
  split
  · exact (linkOnly_taken s).trans (linkOnly_withCounts _ _)
  · exact (linkOnly_taken s).trans (h _)

theorem linkOnly_takeFrame (b : Bool) (f : Frame) (handle : State → State) (h : ∀ s, LinkOnly s (handle s)) (s : State) :
    LinkOnly s (takeFrame b f handle s) := by
  unfold takeFrame; split
  · exact (linkOnly_accept f handle h s).trans (linkOnly_startPortB _)
  · exact .refl s

theorem linkOnly_serve (f : Frame) (r : Request) (h : ∀ s, LinkOnly s (r.owner s).1) (s : State) : LinkOnly s (serve f r s) := by
  unfold serve; split
  · exact .refl s
  · show LinkOnly s (postReply _ (answer r _ s).1)
    refine LinkOnly.trans ?_ (linkOnly_postReply _ _)
    unfold answer; split
    · exact .refl s
    · split
      · exact .refl s
      · split
        · exact .refl s
        · exact h s

theorem linkOnly_takeRequest (b : Bool) (f : Frame) (r : Request) (h : ∀ s, LinkOnly s (r.owner s).1) (s : State) :
    LinkOnly s (takeRequest b f r s) := by
  refine linkOnly_takeFrame b f _ (fun s => ?_) s
  unfold handleRequest; split
  · exact (linkOnly_withCounts (fun c => { c with requestsConsumed := bump32 c.requestsConsumed }) s).trans
      (linkOnly_serve f r h _)
  · exact linkOnly_forward f s

end Sys2Proof.Machine
end

