-- ==== Sys2Proof/Laws/Posted.lean ====
section
/-! SUPPORT. What the postings, the decisions of the permits, and the updates of lot records leave alone: every book but the lot
records, the permits, the tickets and the link. -/

namespace Sys2Proof.Machine

/-- Only the lot records, the permits with their causes, the part-ticket requests waiting, the tickets, the link, the event cells
and the open choices have moved. -/
structure Posted (s t : State) : Prop where
  pending   : t.pending = s.pending
  freeCount : t.freeCount = s.freeCount
  clock     : t.clock = s.clock
  channels  : t.channels = s.channels
  kfr       : t.kfr = s.kfr
  kilns     : t.kilns = s.kilns
  rct       : t.rct = s.rct
  uar       : t.uar = s.uar
  cfl       : t.cfl = s.cfl
  actuators : t.actuators = s.actuators
  address   : t.rlu.address = s.rlu.address
  mgu       : t.mgu = { s.mgu with events := t.mgu.events }
  itk       : t.itk = { s.itk with lots := t.itk.lots, permit := t.itk.permit, cause := t.itk.cause }
  pru       : t.pru = { s.pru with permit := t.pru.permit, cause := t.pru.cause, waiting := t.pru.waiting }

theorem Posted.refl (s : State) : Posted s s := ⟨rfl, rfl, rfl, rfl, rfl, rfl, rfl, rfl, rfl, rfl, rfl, rfl, rfl, rfl⟩

theorem Posted.trans {s t u : State} (h : Posted s t) (k : Posted t u) : Posted s u where
  pending   := k.pending.trans h.pending
  freeCount := k.freeCount.trans h.freeCount
  clock     := k.clock.trans h.clock
  channels  := k.channels.trans h.channels
  kfr       := k.kfr.trans h.kfr
  kilns     := k.kilns.trans h.kilns
  rct       := k.rct.trans h.rct
  uar       := k.uar.trans h.uar
  cfl       := k.cfl.trans h.cfl
  actuators := k.actuators.trans h.actuators
  address   := k.address.trans h.address
  mgu       := by rw [k.mgu, h.mgu]
  itk       := by rw [k.itk, h.itk]
  pru       := by rw [k.pru, h.pru]

theorem posted_foldl {α : Type} (f : State → α → State) (h : ∀ s a, Posted s (f s a)) (xs : List α) (s : State) :
    Posted s (xs.foldl f s) := by
  induction xs generalizing s with
  | nil => exact .refl s
  | cons x xs ih => exact (h s x).trans (ih _)

/-- The link alone moved, with no ticket. -/
theorem Posted.ofLink {s t : State} (h : LinkOnly s t) (hf : t.freeCount = s.freeCount) : Posted s t := by
  obtain ⟨⟨h1, h2, h3, h4, h5, h6⟩, ⟨k1, k2, k3, k4⟩, -, ⟨m1, -, m3, m4⟩⟩ := h
  exact ⟨m1, hf, m3, k1, h2, h3, k3, h4, h5, k2, m4, k4, by rw [h1], by rw [h6]⟩

theorem posted_onTku (f : Tku → Tku) (s : State) : Posted s (onTku f s) :=
  ⟨rfl, rfl, rfl, rfl, rfl, rfl, rfl, rfl, rfl, rfl, rfl, rfl, rfl, rfl⟩

theorem posted_onRlu (f : Rlu → Rlu) (s : State) (h : (f s.rlu).address = s.rlu.address) : Posted s (onRlu f s) :=
  ⟨rfl, rfl, rfl, rfl, rfl, rfl, rfl, rfl, rfl, rfl, h, rfl, rfl, rfl⟩

theorem posted_withCounts (f : LinkCounts → LinkCounts) (s : State) : Posted s (withCounts f s) := posted_onRlu _ s rfl

theorem posted_sched (xs : List Nat) (s : State) : Posted s { s with sched := xs } :=
  ⟨rfl, rfl, rfl, rfl, rfl, rfl, rfl, rfl, rfl, rfl, rfl, rfl, rfl, rfl⟩

theorem posted_setLot (i : Fin 32) (r : Option Lot) (s : State) : Posted s (setLot i r s) :=
  ⟨rfl, rfl, rfl, rfl, rfl, rfl, rfl, rfl, rfl, rfl, rfl, rfl, rfl, rfl⟩

theorem posted_modifyLot (i : Fin 32) (f : Lot → Lot) (s : State) : Posted s (modifyLot i f s) := posted_setLot _ _ s

theorem posted_postCommand (c : Command) (s : State) : Posted s (postCommand c s) := by
  unfold postCommand; split
  · exact posted_onRlu _ s rfl
  · exact .refl s

theorem posted_postReply (r : Reply) (s : State) : Posted s (postReply r s) := by
  unfold postReply; split
  · split
    · exact posted_onRlu _ s rfl
    · exact posted_withCounts _ s
  · exact .refl s

theorem posted_postReport (r : Report) (s : State) : Posted s (postReport r s) := by
  unfold postReport; split
  · split
    · exact posted_onRlu _ s rfl
    · exact posted_withCounts _ s
  · exact .refl s

theorem posted_postEvent (kind : EventKind) (ctx : Context) (s : State) : Posted s (postEvent kind ctx s) := by
  unfold postEvent
  extract_lets e s1
  have h1 : Posted s s1 := ⟨rfl, rfl, rfl, rfl, rfl, rfl, rfl, rfl, rfl, rfl, rfl, rfl, rfl, rfl⟩
  split
  · exact h1
  · split
    · exact h1.trans (posted_postReport _ s1)
    · exact h1

theorem posted_postDiverter (s : State) : Posted s (postDiverter s) := by
  unfold postDiverter; split
  · exact posted_postCommand _ _
  · exact .refl _

theorem posted_postConveyor (v : Nat) (s : State) : Posted s (postConveyor v s) := by
  unfold postConveyor; split
  · exact .refl s
  · exact posted_postCommand _ _

theorem posted_decideFeed (s : State) : Posted s (decideFeed s) := by
  unfold decideFeed
  split
  rename_i permit cause _
  extract_lets s'
  have h : Posted s s' := ⟨rfl, rfl, rfl, rfl, rfl, rfl, rfl, rfl, rfl, rfl, rfl, rfl, rfl, rfl⟩
  split
  · split
    · exact h
    · exact h.trans (posted_postEvent _ _ _)
  · split
    · exact h.trans (posted_postDiverter _)
    · exact h

theorem posted_decidePress (s : State) : Posted s (decidePress s) := by
  unfold decidePress
  split
  rename_i permit cause _
  extract_lets s'
  have h : Posted s s' := ⟨rfl, rfl, rfl, rfl, rfl, rfl, rfl, rfl, rfl, rfl, rfl, rfl, rfl, rfl⟩
  split
  · split
    · exact h
    · exact h.trans (posted_postEvent _ _ _)
  · exact h

/-! ### Tickets and lot records -/

theorem posted_exhaustedTest (s : State) : Posted s (exhaustedTest s) := by
  unfold exhaustedTest; split
  · exact posted_onTku _ s
  · split
    · exact .refl s
    · split
      · exact (posted_onTku _ s).trans (posted_postEvent _ _ _)
      · exact .refl s

theorem posted_offerTest (s : State) : Posted s (offerTest s) := by
  unfold offerTest; split
  · split
    · exact .refl s
    · exact posted_onRlu _ s rfl
  · exact .refl s

theorem posted_markComplete (i : Fin 32) (s : State) : Posted s (markComplete i s) := by
  unfold markComplete; split
  · exact .refl s
  · split
    · exact (posted_setLot _ _ s).trans (posted_onTku _ _)
    · exact .refl s

theorem posted_applyBuild (e : WaitEntry) (l : Lot) (s : State) : Posted s (applyBuild e l s) := by
  unfold applyBuild; split
  · exact posted_setLot _ _ s
  · extract_lets s'
    have h : Posted s s' := (posted_setLot _ _ s).trans (posted_markComplete _ _)
    split
    · exact h.trans (posted_decidePress _)
    · exact h

theorem posted_requestBuilt (e : WaitEntry) (s : State) : Posted s (requestBuilt e s) := by
  unfold requestBuilt; split
  · exact .refl s
  · exact ⟨rfl, rfl, rfl, rfl, rfl, rfl, rfl, rfl, rfl, rfl, rfl, rfl, rfl, rfl⟩

theorem posted_build (e : WaitEntry) (rest : List WaitEntry) (l : Lot) (s : State) : Posted s (build e rest l s) :=
  (posted_onTku _ s).trans ((posted_applyBuild _ _ _).trans ((posted_postEvent _ _ _).trans ((posted_requestBuilt _ _).trans
    ((posted_exhaustedTest _).trans (posted_offerTest _)))))

theorem posted_buildHead {s t : State} (h : buildHead s = some t) : Posted s t := by
  unfold buildHead at h
  split at h
  · cases h
  · split at h
    · cases h
    · split at h
      · cases h; exact posted_build _ _ _ s
      · cases h

theorem posted_buildLoop (n : Nat) (s : State) : Posted s (buildLoop n s) := by
  induction n generalizing s with
  | zero => exact .refl s
  | succ n ih =>
    unfold buildLoop; split
    · exact .refl s
    · rename_i t h; exact (posted_buildHead h).trans (ih t)

theorem posted_oneOf {α : Type} (xs : List α) (s : State) : Posted s (oneOf xs s).2 := by
  unfold oneOf; split
  · exact .refl s
  · exact .refl s
  · unfold takeChoice
    cases h : s.sched with
    | nil => exact .refl s
    | cons n ns => exact posted_sched ns s

theorem posted_blockedTest (s : State) : Posted s (blockedTest s) := by
  unfold blockedTest; split
  · exact posted_onTku _ s
  · split
    · exact .refl s
    · exact (posted_oneOf _ s).trans ((posted_onTku _ _).trans (posted_postEvent _ _ _))

theorem posted_buildTest (s : State) : Posted s (buildTest s) := (posted_buildLoop _ s).trans (posted_blockedTest _)

theorem posted_completionTest (i : Fin 32) (s : State) : Posted s (completionTest i s) := by
  unfold completionTest; split
  · exact .refl s
  · split
    · exact (posted_markComplete i s).trans (posted_buildTest _)
    · exact .refl s

theorem posted_updateLot (i : Fin 32) (f : Lot → Lot) (s : State) : Posted s (updateLot i f s) := by
  unfold updateLot; split
  · exact .refl s
  · exact (posted_setLot _ _ s).trans (posted_completionTest _ _)

theorem posted_updateSlot (i : Option (Fin 32)) (f : Lot → Lot) (s : State) : Posted s (updateSlot i f s) := by
  unfold updateSlot; split
  · exact .refl s
  · exact posted_updateLot _ _ s

theorem posted_forEachLot (k : Fin 4) (f : Lot → Lot) (s : State) : Posted s (forEachLot k f s) :=
  posted_foldl (fun s (c : Contribution) => updateSlot c.slot f s) (fun s c => posted_updateSlot c.slot f s) _ s

theorem posted_retireAll (parts : List (Contribution × Nat)) (s : State) : Posted s (retireAll parts s) :=
  posted_foldl (fun s (p : Contribution × Nat) => updateSlot p.1.slot (retire p.1.green p.2) s) (fun s p => posted_updateSlot p.1.slot _ s) _ s

end Sys2Proof.Machine
end

