-- ==== Sys2Proof/Laws/Tab.lean ====
section
/-! SUPPORT. Reading a table after a change of it. -/

namespace Sys2Proof.Tab

variable {α β : Type} {n : Nat}

@[simp] theorem get_fill (x : α) (i : Fin n) : (fill n x).get i = x := by simp [fill, get]

@[simp] theorem get_set_self (t : Tab α n) (i : Fin n) (x : α) : (t.set i x).get i = x := by simp [set, put, get]

theorem get_set_ne (t : Tab α n) {i j : Fin n} (x : α) (h : i ≠ j) : (t.set i x).get j = t.get j := by
  simp only [set, put, get]
  exact List.getElem_set_ne (fun e => h (Fin.ext e)) _

@[simp] theorem get_modify_self (t : Tab α n) (i : Fin n) (f : α → α) : (t.modify i f).get i = f (t.get i) := by
  simp [modify]

theorem get_modify_ne (t : Tab α n) {i j : Fin n} (f : α → α) (h : i ≠ j) : (t.modify i f).get j = t.get j :=
  get_set_ne t _ h

@[simp] theorem get_map (f : α → β) (t : Tab α n) (i : Fin n) : (t.map f).get i = f (t.get i) := by simp [map, get]

@[simp] theorem get_mapIdx (f : Fin n → α → α) (t : Tab α n) (i : Fin n) : (t.mapIdx f).get i = f i (t.get i) := by
  simp [mapIdx, get]

theorem mem_cells (t : Tab α n) (i : Fin n) : t.get i ∈ t.cells := List.getElem_mem _

theorem exists_get_of_mem (t : Tab α n) {x : α} (h : x ∈ t.cells) : ∃ i : Fin n, t.get i = x := by
  obtain ⟨i, hi, e⟩ := List.mem_iff_getElem.mp h
  exact ⟨⟨i, t.size ▸ hi⟩, e⟩

theorem ext_get {t u : Tab α n} (h : ∀ i, t.get i = u.get i) : t = u := by
  cases t with | mk a ha => cases u with | mk b hb =>
  have : a = b := List.ext_getElem (ha.trans hb.symm) (fun i h1 _ => h ⟨i, ha ▸ h1⟩)
  subst this; rfl

end Sys2Proof.Tab
end

