-- ==== Sys2Proof/Laws/Builds.lean ====
section
/-! SUPPORT. The building of tickets comes to an end: each build leaves a lighter wait list, so more rounds change nothing. -/

namespace Sys2Proof.Machine

/-- The builds that a wait list can bring: a PART entry its own and that of a FINAL entry it may bring. -/
def buildsOf (ws : List WaitEntry) : Nat := (ws.map (fun w => match w.kind with | .part => 2 | .final => 1)).sum

theorem buildsOf_le (ws : List WaitEntry) : buildsOf ws ≤ 2 * ws.length := by
  induction ws with
  | nil => exact Nat.le_refl _
  | cons w ws ih =>
    unfold buildsOf at ih ⊢
    simp only [List.map_cons, List.sum_cons, List.length_cons]
    split <;> omega

/-! ### What leaves the wait list alone -/

theorem tku_postEvent (kind : EventKind) (ctx : Context) (s : State) : (postEvent kind ctx s).tku = s.tku := by
  unfold postEvent postReport
  extract_lets e s1
  split
  · rfl
  · split
    · split
      · split <;> rfl
      · rfl
    · rfl

theorem tku_decidePress (s : State) : (decidePress s).tku = s.tku := by
  unfold decidePress
  split
  split
  · split
    · rfl
    · exact tku_postEvent _ _ _
  · rfl

theorem waitList_sendTests (s : State) : (offerTest (exhaustedTest s)).tku.waitList = s.tku.waitList := by
  have h : (exhaustedTest s).tku.waitList = s.tku.waitList := by
    unfold exhaustedTest; split
    · rfl
    · split
      · rfl
      · split
        · rw [tku_postEvent]; rfl
        · rfl
  rw [← h]
  unfold offerTest; split
  · split <;> rfl
  · rfl

/-- A build takes its entry from the wait list; a PART build may bring one FINAL entry at the tail (R40, R134). -/
theorem build_waitList (e : WaitEntry) (rest : List WaitEntry) (l : Lot) (s : State) :
    (build e rest l s).tku.waitList = rest ∨
    (e.kind = .part ∧ (build e rest l s).tku.waitList = rest ++ [⟨e.slot, l.number, .final⟩]) := by
  unfold build
  extract_lets t s1 s2 s3
  rw [waitList_sendTests]
  have h3 : (requestBuilt e s3).tku = s2.tku := by
    unfold requestBuilt; split
    · exact tku_postEvent _ _ _
    · exact tku_postEvent _ _ _
  rw [h3]
  show (applyBuild e l s1).tku.waitList = rest ∨ _ ∧ (applyBuild e l s1).tku.waitList = _
  unfold applyBuild
  split
  · exact .inl rfl
  · rename_i hk
    extract_lets u
    have hu : u.tku.waitList = rest ∨ u.tku.waitList = rest ++ [⟨e.slot, l.number, .final⟩] := by
      show (markComplete e.slot _).tku.waitList = _ ∨ (markComplete e.slot _).tku.waitList = _
      unfold markComplete
      rw [show lotAt (setLot e.slot (some (partBuilt (validTime s1) l)) s1) e.slot = some (partBuilt (validTime s1) l) from
        Tab.get_set_self _ _ _]
      simp only
      split
      · exact .inr rfl
      · exact .inl rfl
    have hd : (if l.flags.refsFull then decidePress u else u).tku = u.tku := by
      split
      · exact tku_decidePress u
      · rfl
    rw [hd]
    rcases hu with hu | hu
    · exact .inl hu
    · exact .inr ⟨hk, hu⟩

theorem buildHead_lighter {s t : State} (h : buildHead s = some t) : buildsOf t.tku.waitList < buildsOf s.tku.waitList := by
  unfold buildHead at h
  split at h
  · cases h
  · rename_i e rest hw
    split at h
    · cases h
    · split at h
      · rename_i l _ _
        cases h
        have hs : buildsOf s.tku.waitList = (match e.kind with | .part => 2 | .final => 1) + buildsOf rest := by rw [hw]; rfl
        rcases build_waitList e rest l s with hb | ⟨hk, hb⟩
        · rw [hs, hb]; split <;> omega
        · rw [hs, hb, hk]; unfold buildsOf; simp; omega
      · cases h

/-- With rounds enough for the wait list, more rounds change nothing. -/
theorem buildLoop_enough (n m : Nat) (s : State) (hn : buildsOf s.tku.waitList ≤ n) (hm : buildsOf s.tku.waitList ≤ m) :
    buildLoop n s = buildLoop m s := by
  induction n generalizing m s with
  | zero =>
    cases m with
    | zero => rfl
    | succ m =>
      unfold buildLoop; split
      · rfl
      · rename_i t h; have := buildHead_lighter h; omega
  | succ n ih =>
    cases m with
    | zero =>
      unfold buildLoop; split
      · rfl
      · rename_i t h; have := buildHead_lighter h; omega
    | succ m =>
      unfold buildLoop; split
      · rfl
      · rename_i t h; have := buildHead_lighter h; exact ih m t (by omega) (by omega)

/-- The build test goes on with the new head after a build (R128). -/
theorem buildTest_of_buildHead {s t : State} (h : buildHead s = some t) : buildTest s = buildTest t := by
  have h1 := buildHead_lighter h
  have h2 := buildsOf_le s.tku.waitList
  unfold buildTest
  congr 1
  rw [buildLoop_enough _ (2 * t.tku.waitList.length + 1 + 2 * s.tku.waitList.length) s h2 (by omega)]
  rw [show 2 * t.tku.waitList.length + 1 + 2 * s.tku.waitList.length =
    (2 * t.tku.waitList.length + 2 * s.tku.waitList.length) + 1 by omega]
  conv_lhs => unfold buildLoop
  rw [h]
  exact buildLoop_enough _ _ t (by have := buildsOf_le t.tku.waitList; omega) (buildsOf_le _)

end Sys2Proof.Machine
end

