-- ==== Sys2Proof/Laws/Room.lean ====
section
/-! SUPPORT. The first free number of a sequence is free, and what layers that only change, shrink or leave do to the layer
list and the floor book. -/

namespace Sys2Proof.Machine

/-! ### The first free number -/

/-- The number `i` places after `n` in a sequence from 1 to `top`, for `i` up to `top`. -/
def placesOn (top n i : Nat) : Nat :=
  if i = 0 then n else if top < n then i else if n + i ≤ top then n + i else n + i - top

theorem placesOn_next {top n i : Nat} (h : i + 1 ≤ top) : placesOn top (nextInSequence top n) i = placesOn top n (i + 1) := by
  unfold placesOn nextInSequence
  repeat' split
  all_goals omega

theorem placesOn_inj {top n i j : Nat} (hi : i < top) (hj : j < top) (h : placesOn top n i = placesOn top n j) : i = j := by
  unfold placesOn at h
  repeat' split at h
  all_goals omega

theorem mem_of_firstFree_mem {top : Nat} {held : List Nat} (fuel : Nat) : ∀ n, fuel < top → firstFree top held fuel n ∈ held →
    ∀ i, i ≤ fuel → placesOn top n i ∈ held := by
  induction fuel with
  | zero =>
    intro n _ h i hi
    obtain rfl : i = 0 := by omega
    exact h
  | succ fuel ih =>
    intro n hf h i hi
    unfold firstFree at h
    split at h
    · rename_i hn
      cases i with
      | zero => exact hn
      | succ i =>
        rw [← placesOn_next (by omega)]
        exact ih _ (by omega) h i (by omega)
    · rename_i hn
      exact absurd h hn

/-- With fewer numbers held than the sequence has, the first free number is not held (R99, R130). -/
theorem firstFree_not_mem {top n : Nat} {held : List Nat} (h : held.length < top) :
    firstFree top held held.length n ∉ held := by
  intro hm
  have hall := mem_of_firstFree_mem held.length n h hm
  have hnd : ((List.range (held.length + 1)).map (placesOn top n)).Nodup := by
    refine List.Nodup.map_on ?_ List.nodup_range
    intro i hi j hj e
    rw [List.mem_range] at hi hj
    exact placesOn_inj (by omega) (by omega) e
  have hsub : ((List.range (held.length + 1)).map (placesOn top n)) ⊆ held := by
    intro x hx
    obtain ⟨i, hi, rfl⟩ := List.mem_map.1 hx
    rw [List.mem_range] at hi
    exact hall i (by omega)
  have := (hnd.subperm hsub).length_le
  rw [List.length_map, List.length_range] at this
  omega

/-! ### Layers that change, shrink or leave -/

/-- What a layer may become: its number stands, its part in the floor book does not rise, and it does not begin to receive. -/
def Became (m l : Layer) : Prop :=
  l.number = m.number ∧ bookMass l ≤ bookMass m ∧ (l.state = .receiving → m.state = .receiving ∧ l.provisional = m.provisional)

theorem Became.refl (l : Layer) : Became l l := ⟨rfl, Nat.le_refl _, fun h => ⟨h, rfl⟩⟩

/-- A layer list come from another by layers that leave and layers that become another. -/
inductive Shrunk : List Layer → List Layer → Prop
  | nil : Shrunk [] []
  | leave {ms ls : List Layer} (m : Layer) : Shrunk ms ls → Shrunk (m :: ms) ls
  | keep {ms ls : List Layer} {m l : Layer} : Became m l → Shrunk ms ls → Shrunk (m :: ms) (l :: ls)

theorem Shrunk.refl : ∀ ms : List Layer, Shrunk ms ms
  | []      => .nil
  | m :: ms => .keep (.refl m) (.refl ms)

theorem Shrunk.append {ms ls ns ks : List Layer} (h : Shrunk ms ls) (k : Shrunk ns ks) : Shrunk (ms ++ ns) (ls ++ ks) := by
  induction h with
  | nil => exact k
  | leave m _ ih => exact .leave m ih
  | keep b _ ih => exact .keep b ih

theorem shrunk_filter (p : Layer → Bool) : ∀ ms : List Layer, Shrunk ms (ms.filter p)
  | []      => .nil
  | m :: ms => by
    rw [List.filter_cons]
    split
    · exact .keep (.refl m) (shrunk_filter p ms)
    · exact .leave m (shrunk_filter p ms)

theorem shrunk_map (f : Layer → Layer) : ∀ ms : List Layer, (∀ m ∈ ms, Became m (f m)) → Shrunk ms (ms.map f)
  | [],      _ => .nil
  | m :: ms, h => .keep (h m List.mem_cons_self) (shrunk_map f ms (fun x hx => h x (List.mem_cons_of_mem _ hx)))

theorem Shrunk.length_le {ms ls : List Layer} (h : Shrunk ms ls) : ls.length ≤ ms.length := by
  induction h with
  | nil => exact Nat.le_refl _
  | leave m _ ih => exact Nat.le_succ_of_le ih
  | keep _ _ ih => exact Nat.succ_le_succ ih

theorem Shrunk.book_le {ms ls : List Layer} (h : Shrunk ms ls) : (ls.map bookMass).sum ≤ (ms.map bookMass).sum := by
  induction h with
  | nil => exact Nat.le_refl _
  | leave m _ ih => rw [List.map_cons, List.sum_cons]; omega
  | keep b _ ih => have := b.2.1; rw [List.map_cons, List.map_cons, List.sum_cons, List.sum_cons]; omega

theorem Shrunk.numbers {ms ls : List Layer} (h : Shrunk ms ls) : (ls.map (·.number)).Sublist (ms.map (·.number)) := by
  induction h with
  | nil => exact .slnil
  | leave m _ ih => exact .cons _ ih
  | keep b _ ih => rw [List.map_cons, List.map_cons, b.1]; exact .cons_cons _ ih

theorem Shrunk.receiving {ms ls : List Layer} (h : Shrunk ms ls) : ∀ l ∈ ls, l.state = .receiving →
    ∃ m ∈ ms, m.state = .receiving ∧ l.number = m.number ∧ l.provisional = m.provisional := by
  induction h with
  | nil => intro l hl; cases hl
  | leave m _ ih =>
    intro l hl hr
    obtain ⟨x, hx, h⟩ := ih l hl hr
    exact ⟨x, List.mem_cons_of_mem _ hx, h⟩
  | keep b _ ih =>
    intro l hl hr
    rcases List.mem_cons.1 hl with rfl | hl
    · exact ⟨_, List.mem_cons_self, (b.2.2 hr).1, b.1, (b.2.2 hr).2⟩
    · obtain ⟨x, hx, h⟩ := ih l hl hr
      exact ⟨x, List.mem_cons_of_mem _ hx, h⟩

theorem sat64_mono {a b : Nat} (h : a ≤ b) : sat64 a ≤ sat64 b := by unfold sat64; omega

/-- A list that has shrunk keeps the room of the floor. -/
theorem room_setLayers {s : State} {ls : List Layer} (h : Shrunk s.cfl.layers ls) (k : RoomInv s) : RoomInv (setLayers ls s) := by
  refine ⟨Nat.le_trans h.length_le k.1, Nat.le_trans (sat64_mono h.book_le) k.2.1, h.numbers.nodup k.2.2.1, ?_⟩
  intro g hg l hl hr hn
  obtain ⟨m, hm, h1, h2, h3⟩ := h.receiving l hl hr
  rw [h3]
  exact k.2.2.2 g hg m hm h1 (h2 ▸ hn)

end Sys2Proof.Machine
end

