-- ==== Sys2Proof/Laws/Kept.lean ====
section
/-! SUPPORT. What every shared operation keeps: the queue of commands, and the invariants of Safety. One lemma for each
operation, so that a proof about a step cites it and does not unfold it. -/

namespace Sys2Proof.Machine

/-- A change of state that leaves the queue and keeps the invariants. -/
def Kept (s t : State) : Prop :=
  t.pending = s.pending ∧ (LinkInv s → LinkInv t) ∧ (FloorInv s → FloorInv t) ∧ (CountsInv s → CountsInv t) ∧
  (RoomInv s → RoomInv t)

theorem Kept.refl (s : State) : Kept s s := ⟨rfl, id, id, id, id⟩

theorem Kept.trans {s t u : State} (h : Kept s t) (k : Kept t u) : Kept s u :=
  ⟨k.1.trans h.1, fun x => k.2.1 (h.2.1 x), fun x => k.2.2.1 (h.2.2.1 x), fun x => k.2.2.2.1 (h.2.2.2.1 x),
    fun x => k.2.2.2.2 (h.2.2.2.2 x)⟩

/-- A change outside the link, the actuator table, the management unit, the floor, the grant and the credits. -/
theorem Kept.apart {s t : State} (hp : t.pending = s.pending) (hr : t.rlu = s.rlu) (hm : t.mgu = s.mgu)
    (ha : t.actuators = s.actuators) (hc : t.cfl.layers = s.cfl.layers) (hk : t.tku.credits = s.tku.credits)
    (hg : t.uar.grant = s.uar.grant) : Kept s t := by
  refine ⟨hp, ?_, ?_, ?_, ?_⟩
  · rintro ⟨⟨a, b, c, d, e⟩, f, g⟩
    exact ⟨⟨hr ▸ a, hr ▸ b, hr ▸ c, hr ▸ d, hm ▸ e⟩, by rw [hr, ha]; exact f, by rw [hr]; exact g⟩
  · intro h l hl; exact h l (hc ▸ hl)
  · rintro ⟨a, b⟩; exact ⟨hm ▸ a, hk ▸ b⟩
  · intro h; unfold RoomInv floorBook at *; rw [hc, hm, hg]; exact h

/-- A list of steps, each of which keeps, keeps. -/
theorem kept_foldl {α : Type} (f : State → α → State) (h : ∀ s a, Kept s (f s a)) (xs : List α) (s : State) :
    Kept s (xs.foldl f s) := by
  induction xs generalizing s with
  | nil => exact .refl s
  | cons x xs ih => exact (h s x).trans (ih _)

/-! ### The setters -/

theorem kept_onItk (f : Itk → Itk) (s : State) : Kept s (onItk f s) := .apart rfl rfl rfl rfl rfl rfl rfl
theorem kept_onKfr (f : Kfr → Kfr) (s : State) : Kept s (onKfr f s) := .apart rfl rfl rfl rfl rfl rfl rfl
theorem kept_onRct (f : Rct → Rct) (s : State) : Kept s (onRct f s) := .apart rfl rfl rfl rfl rfl rfl rfl
theorem kept_onPru (f : Pru → Pru) (s : State) : Kept s (onPru f s) := .apart rfl rfl rfl rfl rfl rfl rfl
theorem kept_setChannels (t : Tab Channel 64) (s : State) : Kept s (setChannels t s) := .apart rfl rfl rfl rfl rfl rfl rfl
theorem kept_setChannel (i : Fin 64) (c : Channel) (s : State) : Kept s (setChannel i c s) := kept_setChannels _ s

/-- A change of the Unload Arbiter that keeps the layer and the net of its grant, or has none. -/
theorem kept_onUar (f : Uar → Uar) (s : State)
    (h : ∀ g ∈ (f s.uar).grant, ∃ g0 ∈ s.uar.grant, g0.layer = g.layer ∧ g0.net = g.net) : Kept s (onUar f s) :=
  ⟨rfl, id, id, id, fun k => ⟨k.1, k.2.1, k.2.2.1, fun g hg l hl hr hn => by
    obtain ⟨g0, h0, e1, e2⟩ := h g hg
    rw [← e2]
    exact k.2.2.2 g0 h0 l hl hr (e1 ▸ hn)⟩⟩

/-- A change of the Ticket Unit that does not raise the credits past 255. -/
theorem kept_onTku (f : Tku → Tku) (s : State) (h : s.tku.credits ≤ 255 → (f s.tku).credits ≤ 255) : Kept s (onTku f s) :=
  ⟨rfl, id, id, fun k => ⟨k.1, h k.2⟩, id⟩

/-- A change of the layers that keeps every layer's account and does not add to them. -/
theorem kept_setLayers (ls : List Layer) (s : State) (h : FloorInv s → ∀ l ∈ ls, LayerOk l) (hr : Shrunk s.cfl.layers ls) :
    Kept s (setLayers ls s) := ⟨rfl, id, h, id, room_setLayers hr⟩

/-- A change of the link that keeps its invariant. -/
theorem kept_onRlu (f : Rlu → Rlu) (s : State) (h : LinkInv s → LinkInv (onRlu f s)) : Kept s (onRlu f s) :=
  ⟨rfl, h, id, id, id⟩

/-- A change of the link that leaves its queues, its buffer and its starvation count. -/
theorem kept_onRluApart (f : Rlu → Rlu) (s : State) (h1 : (f s.rlu).passBuffer = s.rlu.passBuffer)
    (h2 : (f s.rlu).replies = s.rlu.replies) (h3 : (f s.rlu).reports = s.rlu.reports)
    (h4 : (f s.rlu).starvation = s.rlu.starvation) (h5 : (f s.rlu).commands = s.rlu.commands) : Kept s (onRlu f s) :=
  kept_onRlu f s (by
    rintro ⟨⟨a, b, c, d, e⟩, g, k⟩
    exact ⟨⟨h1 ▸ a, h2 ▸ b, h3 ▸ c, h4 ▸ d, e⟩, fun x hx => g x (h5 ▸ hx), by show ((f s.rlu).commands.map _).Nodup; rw [h5]; exact k⟩)

/-- A change of the management unit that keeps F and the event counts in range, and the floor book within its capacity. -/
theorem kept_onMgu (f : Mgu → Mgu) (s : State)
    (hg : (s.mgu.configValid = true → s.mgu.config.starvationGuard ≤ 64) →
      (f s.mgu).configValid = true → (f s.mgu).config.starvationGuard ≤ 64)
    (he : (∀ e ∈ s.mgu.events.cells, e.count ≤ 255) → ∀ e ∈ (f s.mgu).events.cells, e.count ≤ 255)
    (hf : floorBook s ≤ s.mgu.config.floorCapacity → floorBook s ≤ (f s.mgu).config.floorCapacity) : Kept s (onMgu f s) :=
  ⟨rfl, fun k => ⟨⟨k.1.1, k.1.2.1, k.1.2.2.1, k.1.2.2.2.1, hg k.1.2.2.2.2⟩, k.2⟩, id, fun k => ⟨he k.1, k.2⟩,
    fun k => ⟨k.1, hf k.2.1, k.2.2⟩⟩

/-! ### Ops -/

theorem kept_withCounts (f : LinkCounts → LinkCounts) (s : State) : Kept s (withCounts f s) :=
  kept_onRluApart _ s rfl rfl rfl rfl rfl

theorem kept_takeChoice (s : State) : Kept s (takeChoice s).2 := by
  unfold takeChoice; split
  · exact .refl s
  · exact .apart rfl rfl rfl rfl rfl rfl rfl

theorem kept_inChosenOrder {α : Type} (xs : List α) (s : State) : Kept s (inChosenOrder xs s).2 := kept_takeChoice s

theorem kept_oneOf {α : Type} (xs : List α) (s : State) : Kept s (oneOf xs s).2 := by
  match xs with
  | []          => exact .refl s
  | [_]         => exact .refl s
  | _ :: _ :: _ => exact kept_takeChoice s

/-- The command posted names a valid actuator entry. -/
def NamesValid (s : State) (c : Command) : Prop := ∃ a ∈ s.actuators.cells, a.valid = true ∧ entryActuator a = commandActuator c

theorem mem_enqueueCommand {c x : Command} {qs : List Command} (h : x ∈ enqueueCommand c qs) : x = c ∨ x ∈ qs := by
  induction qs with
  | nil => simpa [enqueueCommand] using h
  | cons q qs ih =>
    unfold enqueueCommand at h
    split at h
    · rcases List.mem_cons.1 h with h | h
      · exact .inl h
      · exact .inr (List.mem_cons_of_mem _ h)
    · rcases List.mem_cons.1 h with h | h
      · exact .inr (h ▸ List.mem_cons_self)
      · exact (ih h).imp id (List.mem_cons_of_mem _)

theorem enqueueCommand_nodup (c : Command) (qs : List Command) (h : (qs.map commandActuator).Nodup) :
    ((enqueueCommand c qs).map commandActuator).Nodup := by
  induction qs with
  | nil => simp [enqueueCommand]
  | cons q qs ih =>
    simp only [List.map_cons, List.nodup_cons] at h
    unfold enqueueCommand
    split
    · rename_i hq
      have : commandActuator c = commandActuator q := by simp [commandActuator, hq.1, hq.2]
      simp only [List.map_cons, List.nodup_cons, this]; exact h
    · rename_i hq
      simp only [List.map_cons, List.nodup_cons]
      refine ⟨?_, ih h.2⟩
      intro hm
      obtain ⟨x, hx, e⟩ := List.mem_map.1 hm
      rcases mem_enqueueCommand hx with rfl | hx
      · simp only [commandActuator, Prod.mk.injEq] at e; exact hq ⟨e.1.symm, e.2.symm⟩
      · exact h.1 (e ▸ List.mem_map_of_mem hx)

theorem kept_postCommand (c : Command) (s : State) (hc : NamesValid s c) : Kept s (postCommand c s) := by
  unfold postCommand; split
  · refine kept_onRlu _ s ?_
    rintro ⟨hb, hv, hn⟩
    refine ⟨hb, ?_, enqueueCommand_nodup c _ hn⟩
    intro x hx
    rcases mem_enqueueCommand hx with rfl | hx
    · exact hc
    · exact hv x hx
  · exact .refl s

theorem length_append_le {α : Type} (xs : List α) (x : α) (n : Nat) (h : xs.length < n) : (xs ++ [x]).length ≤ n := by
  rw [List.length_append]; exact h

theorem kept_postReply (r : Reply) (s : State) : Kept s (postReply r s) := by
  unfold postReply; split
  · split
    · rename_i h
      refine kept_onRlu _ s ?_
      rintro ⟨⟨a, _, c, d, e⟩, hc⟩
      exact ⟨⟨a, length_append_le _ _ _ h, c, d, e⟩, hc⟩
    · exact kept_withCounts _ s
  · exact .refl s

theorem kept_postReport (r : Report) (s : State) : Kept s (postReport r s) := by
  unfold postReport; split
  · split
    · rename_i h
      refine kept_onRlu _ s ?_
      rintro ⟨⟨a, b, _, d, e⟩, hc⟩
      exact ⟨⟨a, b, length_append_le _ _ _ h, d, e⟩, hc⟩
    · exact kept_withCounts _ s
  · exact .refl s

theorem kept_postEvent (kind : EventKind) (ctx : Context) (s : State) : Kept s (postEvent kind ctx s) := by
  have h : Kept s (onMgu (fun b => { b with events := b.events.set (EventKind.index kind) (countOccurrence (s.mgu.events.get (EventKind.index kind))) }) s) := by
    refine kept_onMgu _ s id ?_ id
    intro k e he
    rcases List.mem_or_eq_of_mem_set he with he | rfl
    · exact k e he
    · exact Nat.min_le_left _ _
  unfold postEvent
  dsimp only
  split
  · exact h
  · split
    · exact h.trans (kept_postReport _ _)
    · exact h

theorem kept_forward (f : Frame) (s : State) : Kept s (forward f s) := by
  unfold forward; split
  · rename_i h
    refine Kept.trans ?_ (kept_withCounts _ _)
    refine kept_onRlu _ s ?_
    rintro ⟨⟨_, b, c, d, e⟩, hc⟩
    exact ⟨⟨length_append_le _ _ _ h, b, c, d, e⟩, hc⟩
  · exact (kept_withCounts _ s).trans (kept_postEvent _ _ _)

theorem kept_setLoad (k : Fin 4) (r : LoadRecord) (s : State) : Kept s (setLoad k r s) := kept_onKfr _ s
theorem kept_modifyKiln (k : Fin 4) (f : Kiln → Kiln) (s : State) : Kept s (modifyKiln k f s) := .apart rfl rfl rfl rfl rfl rfl rfl
theorem kept_setLot (i : Fin 32) (r : Option Lot) (s : State) : Kept s (setLot i r s) := kept_onItk _ s
theorem kept_modifyLot (i : Fin 32) (f : Lot → Lot) (s : State) : Kept s (modifyLot i f s) := kept_setLot _ _ _

/-! ### Flags -/

theorem actuatorFor_valid {s : State} {f : ActuatorFunction} {a : Actuator} (h : actuatorFor s f = some a) :
    a ∈ s.actuators.cells ∧ a.valid = true := by
  have h1 := List.mem_of_find?_eq_some h
  have h2 := List.find?_some h
  exact ⟨h1, by simp at h2; exact h2.1⟩

theorem kept_postDiverter (s : State) : Kept s (postDiverter s) := by
  unfold postDiverter; split
  · rename_i h
    exact kept_postCommand _ s ⟨_, (actuatorFor_valid h).1, (actuatorFor_valid h).2, rfl⟩
  · exact .refl s

theorem kept_decideFeed (s : State) : Kept s (decideFeed s) := by
  unfold decideFeed
  have h : ∀ p c, Kept s (onItk (fun b => { b with permit := p, cause := c }) s) := fun _ _ => kept_onItk _ s
  dsimp only
  split
  · split
    · exact h _ _
    · exact (h _ _).trans (kept_postEvent _ _ _)
  · split
    · exact (h _ _).trans (kept_postDiverter _)
    · exact h _ _

theorem kept_decidePress (s : State) : Kept s (decidePress s) := by
  unfold decidePress
  have h : ∀ p c, Kept s (onPru (fun b => { b with permit := p, cause := c }) s) := fun _ _ => kept_onPru _ s
  dsimp only
  split
  · split
    · exact h _ _
    · exact (h _ _).trans (kept_postEvent _ _ _)
  · exact h _ _

/-! ### Tickets -/

theorem kept_exhaustedTest (s : State) : Kept s (exhaustedTest s) := by
  unfold exhaustedTest; split
  · exact kept_onTku _ s id
  · split
    · exact .refl s
    · split
      · exact (kept_onTku _ s id).trans (kept_postEvent _ _ _)
      · exact .refl s

theorem kept_offerTest (s : State) : Kept s (offerTest s) := by
  unfold offerTest; split
  · split
    · exact .refl s
    · exact kept_onRluApart _ s rfl rfl rfl rfl rfl
  · exact .refl s

theorem kept_withdraw (s : State) : Kept s (withdraw s) := kept_onRluApart _ s rfl rfl rfl rfl rfl

theorem kept_segmentInserted (n : Nat) (s : State) : Kept s (segmentInserted n s) := by
  refine .trans (.trans (kept_onTku _ s ?_) (kept_exhaustedTest _)) (kept_offerTest _)
  exact fun h => Nat.le_trans (Nat.sub_le _ _) h

theorem kept_markComplete (i : Fin 32) (s : State) : Kept s (markComplete i s) := by
  unfold markComplete; split
  · exact .refl s
  · split
    · exact .trans (kept_setLot _ _ s) (kept_onTku _ _ id)
    · exact .refl s

theorem kept_applyBuild (e : WaitEntry) (l : Lot) (s : State) : Kept s (applyBuild e l s) := by
  unfold applyBuild; split
  · exact kept_setLot _ _ _
  · dsimp only
    have h := (kept_setLot e.slot (some (partBuilt (validTime s) l)) s).trans (kept_markComplete e.slot _)
    split
    · exact h.trans (kept_decidePress _)
    · exact h

theorem kept_requestBuilt (e : WaitEntry) (s : State) : Kept s (requestBuilt e s) := by
  unfold requestBuilt; split
  · exact .refl s
  · exact kept_onPru _ s

theorem kept_build (e : WaitEntry) (rest : List WaitEntry) (l : Lot) (s : State) : Kept s (build e rest l s) := by
  unfold build
  refine .trans (.trans (.trans (.trans (.trans ?_ (kept_applyBuild _ _ _)) (kept_postEvent _ _ _))
    (kept_requestBuilt _ _)) (kept_exhaustedTest _)) (kept_offerTest _)
  exact kept_onTku _ s id

theorem kept_buildHead {s t : State} (h : buildHead s = some t) : Kept s t := by
  unfold buildHead at h
  split at h
  · cases h
  · split at h
    · cases h
    · split at h
      · cases h; exact kept_build _ _ _ _
      · cases h

theorem kept_buildLoop (n : Nat) (s : State) : Kept s (buildLoop n s) := by
  induction n generalizing s with
  | zero => exact .refl s
  | succ n ih =>
    unfold buildLoop; split
    · exact .refl s
    · rename_i h; exact (kept_buildHead h).trans (ih _)

theorem kept_blockedTest (s : State) : Kept s (blockedTest s) := by
  unfold blockedTest; split
  · exact kept_onTku _ _ id
  · split
    · exact .refl s
    · exact .trans (kept_oneOf _ s) (.trans (kept_onTku _ _ id) (kept_postEvent _ _ _))

theorem kept_buildTest (s : State) : Kept s (buildTest s) := (kept_buildLoop _ s).trans (kept_blockedTest _)

theorem kept_completionTest (i : Fin 32) (s : State) : Kept s (completionTest i s) := by
  unfold completionTest; split
  · exact .refl s
  · split
    · exact (kept_markComplete i s).trans (kept_buildTest _)
    · exact .refl s

theorem kept_updateLot (i : Fin 32) (f : Lot → Lot) (s : State) : Kept s (updateLot i f s) := by
  unfold updateLot; split
  · exact .refl s
  · exact (kept_setLot _ _ _).trans (kept_completionTest i _)

theorem kept_updateSlot (i : Option (Fin 32)) (f : Lot → Lot) (s : State) : Kept s (updateSlot i f s) := by
  unfold updateSlot; split
  · exact .refl s
  · exact kept_updateLot _ f s

theorem kept_partRequest (i : Fin 32) (n : Nat) (s : State) : Kept s (partRequest i n s).1 := by
  unfold partRequest; split
  · exact .trans (kept_onTku _ _ id) (kept_buildTest _)
  · exact .refl s

/-! ### Unload -/

theorem kept_moveKiln (k : Fin 4) (st : KilnState) (s : State) : Kept s (moveKiln k st s) :=
  (kept_modifyKiln _ _ _).trans (kept_decideFeed _)

theorem kept_postConveyor (v : Nat) (s : State) : Kept s (postConveyor v s) := by
  unfold postConveyor; split
  · exact .refl s
  · rename_i h
    exact kept_postCommand _ s ⟨_, (actuatorFor_valid h).1, (actuatorFor_valid h).2, rfl⟩

theorem kept_postPresentConveyor (s : State) : Kept s (postPresentConveyor s) := kept_postConveyor _ s

/-- With fewer than 255 layers listed, the next layer number is no listed one (R99). -/
theorem nextLayerNumber_not_mem {s : State} (h : s.cfl.layers.length < 255) :
    nextLayerNumber s ∉ s.cfl.layers.map (·.number) := by
  unfold nextLayerNumber
  rw [← List.length_map (f := (·.number)) (as := s.cfl.layers)]
  exact firstFree_not_mem (by rw [List.length_map]; exact h)

/-- A grant that the grant test allows keeps the room of the floor (R91, R92). -/
theorem room_grant {s t : State} {k : Fin 4} (hc : canGrant s k = true) (hm : t.mgu = s.mgu)
    (hl : t.cfl.layers = s.cfl.layers ++ [receivingLayer s k]) (hg : t.uar.grant = some (grantFor s k)) (h : RoomInv s) :
    RoomInv t := by
  simp only [canGrant, Bool.and_eq_true, decide_eq_true_eq] at hc
  obtain ⟨⟨_, h16⟩, hb⟩ := hc
  have hfree := nextLayerNumber_not_mem (s := s) (by omega)
  refine ⟨by rw [hl, List.length_append]; exact h16, ?_, ?_, ?_⟩
  · rw [hm]
    refine Nat.le_trans ?_ hb
    show sat64 _ ≤ sat64 _ + _
    have hr : bookMass (receivingLayer s k) = netOf s k := rfl
    rw [hl, List.map_append, List.sum_append, List.map_singleton, List.sum_singleton, hr]
    unfold sat64; omega
  · rw [hl, List.map_append, List.map_singleton]
    exact List.nodup_append.2 ⟨h.2.2.1, List.nodup_singleton _, fun a ha b hb e => by
      have hn : a = nextLayerNumber s := e.trans (List.mem_singleton.1 hb)
      exact hfree (hn ▸ ha)⟩
  · intro g hg' l hl' hr hn
    rw [hg, Option.mem_some_iff] at hg'
    subst hg'
    rw [hl, List.mem_append] at hl'
    rcases hl' with hl' | hl'
    · exact absurd (List.mem_map.2 ⟨l, hl', hn⟩) hfree
    · rw [List.mem_singleton.1 hl']; rfl

theorem kept_grantKiln (k : Fin 4) (rest : List (Fin 4)) (s : State) (h : canGrant s k = true) : Kept s (grantKiln k rest s) := by
  unfold grantKiln
  extract_lets made listed stopped
  have hl : Kept s listed := by
    refine ⟨rfl, id, ?_, id, room_grant h rfl rfl rfl⟩
    intro hf l hl
    rcases List.mem_append.1 hl with hl | hl
    · exact hf l hl
    · rw [List.mem_singleton.1 hl]; exact ⟨rfl, fun _ => rfl⟩
  exact .trans (.trans (.trans (hl.trans (kept_decidePress _)) (kept_modifyKiln _ _ _)) (kept_moveKiln _ _ _)) (kept_postConveyor _ _)

theorem kept_grantTest (s : State) : Kept s (grantTest s) := by
  unfold grantTest; split
  · exact .refl s
  · split
    · rename_i h; exact kept_grantKiln _ _ _ h
    · exact .refl s

theorem kept_joinRequests (k : Fin 4) (s : State) : Kept s (joinRequests k s) :=
  .trans (kept_onUar _ _ fun g h => ⟨g, h, rfl, rfl⟩) (kept_grantTest _)

/-! ### Kilns -/

theorem mem_of_getD {α : Type} {n : Nat} (t : Tab α n) (i : Nat) (d x : α) (h : t.getD i d = x) (hx : x ≠ d) : x ∈ t.cells := by
  unfold Tab.getD at h
  rw [List.getD_eq_getElem?_getD] at h
  cases hi : t.cells[i]? with
  | none => rw [hi] at h; exact absurd h.symm hx
  | some y => rw [hi] at h; simp at h; rw [← h]; exact List.mem_of_getElem? hi

theorem kept_postTo (s : State) (k : Fin 4) (i v : Nat) (f : ActuatorFunction) (h : bound s k i f = true) :
    Kept s (postTo s i v) := by
  refine kept_postCommand _ s ⟨s.actuators.getD i Actuator.powerOn, ?_, ?_, rfl⟩
  · refine mem_of_getD s.actuators i Actuator.powerOn _ rfl ?_
    intro e
    simp only [bound] at h
    rw [e] at h
    cases h
  · simp only [bound, Bool.and_eq_true] at h; exact h.1

theorem kept_postBurner (k : Fin 4) (v : Nat) (s : State) : Kept s (postBurner k v s) := by
  unfold postBurner; split
  · rename_i h
    exact (kept_modifyKiln _ _ _).trans (kept_postTo _ k _ _ .burner h)
  · exact kept_modifyKiln _ _ _

theorem kept_postFan (k : Fin 4) (v : Nat) (s : State) : Kept s (postFan k v s) := by
  unfold postFan; split
  · rename_i h
    exact (kept_modifyKiln _ _ _).trans (kept_postTo _ k _ _ .fan h)
  · exact kept_modifyKiln _ _ _

theorem kept_postDrying (k : Fin 4) (i : Nat) (s : State) : Kept s (postDrying k i s) :=
  (kept_postBurner _ _ _).trans (kept_postFan _ _ _)
theorem kept_postHeld (k : Fin 4) (i : Nat) (s : State) : Kept s (postHeld k i s) :=
  (kept_postBurner _ _ _).trans (kept_postFan _ _ _)
theorem kept_postEndpoint (k : Fin 4) (s : State) : Kept s (postEndpoint k s) :=
  (kept_postBurner _ _ _).trans (kept_postFan _ _ _)

theorem kept_holdKiln (k : Fin 4) (c : HoldCauses) (s : State) : Kept s (holdKiln k c s) := by
  unfold holdKiln; split
  · exact (kept_moveKiln _ _ _).trans ((kept_modifyKiln _ _ _).trans ((kept_postHeld _ _ _).trans (kept_postEvent _ _ _)))
  · exact kept_modifyKiln _ _ _
  · exact .refl s

theorem kept_forEachLot (k : Fin 4) (f : Lot → Lot) (s : State) : Kept s (forEachLot k f s) :=
  kept_foldl (fun s (c : Contribution) => updateSlot c.slot f s) (fun s c => kept_updateSlot c.slot f s) _ s

theorem kept_markSuspect (k : Fin 4) (s : State) : Kept s (markSuspect k s) :=
  (kept_setLoad _ _ _).trans (kept_forEachLot _ _ _)

theorem kept_mismatchCheck (k : Fin 4) (s : State) : Kept s (mismatchCheck k s) := by
  unfold mismatchCheck; split
  · split
    · exact (kept_markSuspect k s).trans (kept_postEvent _ _ _)
    · exact .refl s
  · exact (kept_markSuspect k s).trans (kept_postEvent _ _ _)

theorem kept_armTimer (k : Fin 4) (s : State) : Kept s (armTimer k s) := kept_modifyKiln _ _ _

theorem kept_startDrying (k : Fin 4) (s : State) : Kept s (startDrying k s) := by
  unfold startDrying
  extract_lets number copy s1 s2 s3 s4 s5
  have h : Kept s s5 := .trans (.trans (.trans (.trans (.trans (kept_modifyKiln _ _ _) (kept_mismatchCheck _ _))
    (kept_modifyKiln _ _ _)) (kept_moveKiln _ _ _)) (kept_armTimer _ _)) (kept_postDrying _ _ _)
  split
  · exact h
  · exact h.trans (kept_holdKiln _ _ _)

theorem kept_formEstimate (k : Fin 4) (s : State) : Kept s (formEstimate k s) := by
  unfold formEstimate; split
  · dsimp only
    split
    · split
      · exact kept_modifyKiln _ _ _
      · refine Kept.trans ?_ (kept_postEvent _ _ _)
        split
        · exact kept_modifyKiln _ _ _
        · exact (kept_modifyKiln _ _ _).trans (kept_markSuspect _ _)
    · exact kept_modifyKiln _ _ _
  · exact kept_modifyKiln _ _ _

theorem kept_enterEndpoint (k : Fin 4) (s : State) : Kept s (enterEndpoint k s) :=
  .trans (.trans (.trans (.trans (.trans (kept_moveKiln _ _ _) (kept_modifyKiln _ _ _)) (kept_modifyKiln _ _ _))
    (kept_postEndpoint _ _)) (kept_joinRequests _ _)) (kept_postEvent _ _ _)

theorem kept_endStage (k : Fin 4) (i : Nat) (o : Bool) (s : State) : Kept s (endStage k i o s) := by
  unfold endStage
  extract_lets s1
  have h : Kept s s1 := by
    show Kept s (if o = true then postEvent .stageOverrun (kilnContext k) s else s)
    split
    · exact kept_postEvent _ _ _
    · exact .refl s
  split
  · exact h.trans (.trans (.trans (kept_moveKiln _ _ _) (kept_modifyKiln _ _ _)) (kept_postDrying _ _ _))
  · exact h.trans (kept_enterEndpoint _ _)

theorem kept_evaluateDrying (k : Fin 4) (i : Nat) (s : State) : Kept s (evaluateDrying k i s) := by
  unfold evaluateDrying
  extract_lets st e s1 s2 s3
  have h : Kept s s3 := .trans (.trans (kept_modifyKiln _ _ _) (kept_formEstimate _ _)) (kept_modifyKiln _ _ _)
  split
  · exact h.trans (kept_endStage _ _ _ _)
  · split
    · exact h.trans (kept_endStage _ _ _ _)
    · exact h.trans (kept_postDrying _ _ _)

theorem kept_evaluate (k : Fin 4) (s : State) : Kept s (evaluate k s) := by
  unfold evaluate
  extract_lets s1
  have h : Kept s s1 := kept_armTimer k s
  split
  · exact h.trans (kept_evaluateDrying _ _ _)
  · exact h.trans (.trans (kept_formEstimate _ _) (kept_postHeld _ _ _))
  · refine h.trans (Kept.trans ?_ (kept_postEndpoint _ _))
    split
    · exact .refl _
    · exact kept_formEstimate _ _
  · exact h

theorem kept_resume (k : Fin 4) (i : Nat) (s : State) : Kept s (resume k i s) :=
  .trans (.trans (kept_modifyKiln _ _ _) (kept_moveKiln _ _ _)) (kept_postDrying _ _ _)

theorem kept_markForced (k : Fin 4) (s : State) : Kept s (markForced k s) :=
  .trans (kept_modifyKiln _ _ _) (kept_forEachLot _ _ _)

theorem kept_forceRunning (k : Fin 4) (s : State) : Kept s (forceRunning k s) :=
  .trans (.trans (kept_markForced _ _) (kept_modifyKiln _ _ _)) (kept_enterEndpoint _ _)

theorem kept_forceLoaded (k : Fin 4) (s : State) : Kept s (forceLoaded k s) := by
  unfold forceLoaded
  extract_lets s1 s2
  have h1 : Kept s s1 := kept_markForced _ _
  have h2 : Kept s1 s2 := kept_modifyKiln _ _ _
  exact .trans (.trans (.trans (h1.trans h2) (kept_formEstimate _ _)) (kept_armTimer _ _)) (kept_enterEndpoint _ _)

theorem kept_forceOrphan (k : Fin 4) (s : State) : Kept s (forceOrphan k s) := by
  unfold forceOrphan
  extract_lets s1 s2 s3
  have h1 : Kept s s1 := kept_setLoad _ _ _
  have h2 : Kept s1 s2 := kept_onKfr _ _
  have h3 : Kept s2 s3 := kept_modifyKiln _ _ _
  exact .trans (.trans ((h1.trans h2).trans h3) (kept_armTimer _ _)) (kept_enterEndpoint _ _)

theorem kept_emptyKiln (k : Fin 4) (s : State) : Kept s (emptyKiln k s) :=
  .trans (.trans (kept_setLoad _ _ _) (kept_modifyKiln _ _ _)) (kept_moveKiln _ _ _)

/-! ### Fill -/

theorem kept_chooseKiln (k : Fin 4) (s : State) : Kept s (chooseKiln k s) := by
  unfold chooseKiln
  have h1 : Kept s (setLoad k (newLoad s k) s) := kept_setLoad _ _ _
  exact h1.trans (.trans (.trans (.trans (kept_onKfr
    (fun b => { b with nextSerial := nextInSequence 65535 b.nextSerial }) _) (kept_moveKiln _ _ _)) (kept_onKfr _ _))
    (kept_postDiverter _))

theorem kept_selectKiln (s : State) : Kept s (selectKiln s) := by
  unfold selectKiln; split
  · split
    · exact .refl s
    · exact kept_chooseKiln _ _
  · exact .refl s

theorem kept_enterLoaded (k : Fin 4) (s : State) : Kept s (enterLoaded k s) := by
  unfold enterLoaded
  extract_lets s1 s2 s3
  have h1 : Kept s s1 := .trans (kept_modifyKiln _ _ _) (kept_moveKiln _ _ _)
  have h2 : Kept s1 s2 := kept_forEachLot _ _ _
  have h3 : Kept s2 s3 := by
    show Kept s2 (if _ then _ else _)
    split
    · exact kept_startDrying _ _
    · exact .refl _
  exact .trans (.trans (h1.trans h2) h3) (kept_selectKiln _)

theorem kept_lowRoomClose (s : State) : Kept s (lowRoomClose s) := by
  unfold lowRoomClose; split
  · exact .refl s
  · split
    · exact kept_enterLoaded _ _
    · exact .refl s

theorem kept_capacityClose (k : Fin 4) (s : State) : Kept s (capacityClose k s) := by
  unfold capacityClose; split
  · exact kept_enterLoaded _ _
  · exact .refl s

theorem kept_creditLoad (k : Fin 4) (f : LoadRecord → LoadRecord) (s : State) : Kept s (creditLoad k f s) :=
  .trans (kept_setLoad _ _ _) (kept_onKfr _ _)

theorem kept_creditFilling (k : Fin 4) (f : LoadRecord → LoadRecord) (s : State) : Kept s (creditFilling k f s) :=
  .trans (.trans (.trans (kept_creditLoad _ _ _) (kept_decideFeed _)) (kept_capacityClose _ _)) (kept_lowRoomClose _)

theorem kept_spillCarry (i : Fin 32) (l : Lot) (g : Nat) (s : State) : Kept s (spillCarry i l g s) := by
  unfold spillCarry
  extract_lets s1 s2
  have h1 : Kept s s1 := kept_updateLot _ _ _
  have h2 : Kept s1 s2 := by
    show Kept s1 (if _ then _ else _)
    split
    · exact .refl _
    · exact kept_postEvent _ _ _
  exact .trans (h1.trans h2) (kept_onKfr _ _)

theorem kept_placeByTable (n : Nat) (i : Fin 32) (l : Lot) (g : Nat) (s : State) : Kept s (placeByTable n i l g s) := by
  induction n generalizing s with
  | zero => exact kept_spillCarry _ _ _ _
  | succ n ih =>
    unfold placeByTable; split
    · exact kept_spillCarry _ _ _ _
    · split
      · split
        · exact kept_creditFilling _ _ _
        · split
          · exact kept_creditFilling _ _ _
          · exact (kept_enterLoaded _ _).trans (ih _)
      · split
        · exact kept_creditLoad _ _ _
        · split
          · exact (kept_creditLoad _ _ _).trans (kept_updateLot _ _ _)
          · exact kept_spillCarry _ _ _ _
      · exact kept_spillCarry _ _ _ _

theorem kept_placeCarry (i : Fin 32) (g : Nat) (s : State) : Kept s (placeCarry i g s) := by
  unfold placeCarry; split
  · exact .refl s
  · refine Kept.trans ?_ (kept_placeByTable _ _ _ _ _)
    split
    · exact kept_selectKiln s
    · exact .refl s

/-! ### Intake -/

theorem kept_appendTransit (l : Option (Fin 32)) (s : State) : Kept s (appendTransit l s) := kept_onItk _ s

theorem kept_transitFull (h : Bool) (s : State) : Kept s (transitFull h s) := by
  unfold transitFull; split
  · exact .refl s
  · exact kept_postEvent _ _ _

theorem kept_startHooking (i : Fin 32) (r : List (Fin 32)) (s : State) : Kept s (startHooking i r s) :=
  .trans (.trans (.trans (kept_modifyLot _ _ _) (kept_onItk _ _)) (kept_appendTransit _ _)) (kept_selectKiln _)

theorem kept_hookingTest (s : State) : Kept s (hookingTest s) := by
  unfold hookingTest; split
  · split
    · exact .refl s
    · split
      · exact kept_startHooking _ _ _
      · exact .trans (kept_onItk _ _) (kept_transitFull _ _)
  · exact .refl s

theorem kept_appendBoundary (s : State) : Kept s (appendBoundary s) := by
  unfold appendBoundary; split
  · exact kept_appendTransit _ _
  · exact .trans (kept_onItk _ _) (kept_transitFull _ _)

theorem kept_endHooking (i : Fin 32) (s : State) : Kept s (endHooking i s) := by
  unfold endHooking
  extract_lets s1 s2
  have h1 : Kept s s1 := kept_modifyLot _ _ _
  have h2 : Kept s1 s2 := kept_onItk _ _
  refine .trans (.trans (h1.trans h2) ?_) (kept_decideFeed _)
  split
  · exact kept_appendBoundary _
  · exact kept_hookingTest _

theorem kept_countHook (i : Fin 32) (s : State) : Kept s (countHook i s) := kept_modifyLot _ _ _

theorem kept_transitSwitch (e : TransitEntry) (r : List TransitEntry) (s : State) : Kept s (transitSwitch e r s) := by
  unfold transitSwitch
  extract_lets s1 s2 s3 s4 s5
  have h2 : Kept s1 s2 := by
    show Kept s1 (match s1.itk.weighLot with
      | none => s1
      | some w => completionTest w (modifyLot w (fun l => { l with state := .inProcess }) s1))
    split
    · exact .refl s1
    · exact .trans (kept_modifyLot _ _ _) (kept_completionTest _ _)
  have h4 : Kept s3 s4 := by
    show Kept s3 (if _ then _ else _)
    split
    · exact kept_selectKiln _
    · exact .refl _
  have h5 : Kept s4 s5 := by
    show Kept s4 (if _ then _ else _)
    split
    · exact .trans (kept_onItk _ _) (kept_appendTransit _ _)
    · exact .refl _
  exact .trans (.trans (.trans (.trans (.trans (.trans (kept_onItk _ s) h2) (kept_onItk _ s2)) h4) h5) (kept_hookingTest _))
    (kept_decideFeed _)

theorem kept_markGap (s : State) : Kept s (markGap s) := by
  unfold markGap; split
  · exact .refl s
  · exact kept_modifyLot _ _ _

theorem kept_carryGrams (g : Nat) (s : State) : Kept s (carryGrams g s) := by
  unfold carryGrams; split
  · exact .refl s
  · split
    · exact .refl s
    · exact (kept_modifyLot _ _ _).trans (kept_placeCarry _ _ _)

theorem kept_beltIncrease (a b : Nat) (s : State) : Kept s (beltIncrease a b s) := by
  unfold beltIncrease
  extract_lets v sum
  split
  · split
    · exact .refl s
    · exact .trans (kept_onItk _ _) (kept_postEvent _ _ _)
  · exact .trans (kept_onItk _ _) (kept_carryGrams _ _)

theorem kept_beltArrival (c : Nat) (v : Int) (t : Time) (s : State) : Kept s (beltArrival c v t s) := by
  unfold beltArrival
  extract_lets interval capped s1 s2
  have h1 : Kept s s1 := kept_onItk _ _
  have h2 : Kept s1 s2 := by
    show Kept s1 (if _ then _ else _)
    split
    · exact kept_markGap _
    · exact .refl _
  exact .trans (h1.trans h2) (kept_beltIncrease _ _ _)

end Sys2Proof.Machine
end

