-- ==== Sys2Proof/Laws/Split.lean ====
section
/-! SUPPORT. What the largest-remainder split gives (R155, R156), and the sums of shares that rest on it. -/

namespace Sys2Proof.Machine

theorem giveFirst_sum (m : Nat) (xs : List (Nat × Nat)) (h : ∃ x ∈ xs, x.2 = m) :
    ((giveFirst m xs).map Prod.fst).sum = (xs.map Prod.fst).sum + 1 := by
  induction xs with
  | nil => simp at h
  | cons x xs ih =>
    obtain ⟨p, r⟩ := x
    by_cases hr : r = m
    · simp [giveFirst, hr]; omega
    · have h' : ∃ x ∈ xs, x.2 = m := by
        obtain ⟨y, hy, e⟩ := h
        rcases List.mem_cons.1 hy with rfl | hy
        · exact absurd e hr
        · exact ⟨y, hy, e⟩
      simp only [giveFirst, hr, if_false, List.map_cons, List.sum_cons]
      rw [ih h']; omega

theorem topRemainder_mem (xs : List (Nat × Nat)) (h : xs ≠ []) : ∃ x ∈ xs, x.2 = topRemainder xs := by
  induction xs with
  | nil => exact absurd rfl h
  | cons x xs ih =>
    obtain ⟨p, r⟩ := x
    by_cases hx : xs = []
    · subst hx; exact ⟨(p, r), by simp, by simp [topRemainder]⟩
    · obtain ⟨y, hy, e⟩ := ih hx
      by_cases hr : topRemainder xs ≤ r
      · exact ⟨(p, r), by simp, by simp [topRemainder, Nat.max_eq_left hr]⟩
      · exact ⟨y, by simp [hy], by simp [topRemainder, Nat.max_eq_right (Nat.le_of_not_le hr), e]⟩

theorem giveFirst_length (m : Nat) (xs : List (Nat × Nat)) : (giveFirst m xs).length = xs.length := by
  induction xs with
  | nil => rfl
  | cons x xs ih => obtain ⟨p, r⟩ := x; by_cases h : r = m <;> simp [giveFirst, h, ih]

theorem giveGrams_length (n : Nat) (xs : List (Nat × Nat)) : (giveGrams n xs).length = xs.length := by
  induction n generalizing xs with
  | zero => rfl
  | succ n ih => simp [giveGrams, ih, giveFirst_length]

theorem giveGrams_sum (n : Nat) (xs : List (Nat × Nat)) (h : xs ≠ []) :
    ((giveGrams n xs).map Prod.fst).sum = (xs.map Prod.fst).sum + n := by
  induction n generalizing xs with
  | zero => rfl
  | succ n ih =>
    have hne : giveFirst (topRemainder xs) xs ≠ [] := by
      intro e; have := giveFirst_length (topRemainder xs) xs; rw [e] at this
      exact h (List.length_eq_zero_iff.1 this.symm)
    simp only [giveGrams]
    rw [ih _ hne, giveFirst_sum _ _ (topRemainder_mem xs h)]; omega

/-- The bases and the remainders over the divisor make up the products (R155). -/
theorem splitBases_total (total a : Nat) (ws : List Nat) :
    a * ((splitBases total a ws).map Prod.fst).sum + ((splitBases total a ws).map Prod.snd).sum = total * ws.sum := by
  induction ws with
  | nil => simp [splitBases]
  | cons w ws ih =>
    simp only [splitBases, List.map_cons, List.sum_cons] at ih ⊢
    have := Nat.div_add_mod (total * w) a
    rw [Nat.mul_add, Nat.mul_add, ← ih]; omega

theorem splitBases_le (total : Nat) (ws : List Nat) (h : ws.sum ≠ 0) :
    ((splitBases total ws.sum ws).map Prod.fst).sum ≤ total := by
  have := splitBases_total total ws.sum ws
  have h2 : ws.sum * ((splitBases total ws.sum ws).map Prod.fst).sum ≤ ws.sum * total := by
    rw [Nat.mul_comm ws.sum total]; omega
  exact Nat.le_of_mul_le_mul_left h2 (Nat.pos_of_ne_zero h)

/-- The parts sum to the total exactly (R156). -/
theorem split_sum {total : Nat} {ws ps : List Nat} (h : split total ws = some ps) : ps.sum = total := by
  unfold split at h
  split at h
  · simp at h
  · rename_i hs
    simp only [Option.some.injEq] at h
    have hne : splitBases total ws.sum ws ≠ [] := by
      intro e; apply hs
      have : ws = [] := by simpa [splitBases] using e
      simp [this]
    have := splitBases_le total ws hs
    rw [← h, giveGrams_sum _ _ hne]; omega

/-- One part for each weight. -/
theorem split_length {total : Nat} {ws ps : List Nat} (h : split total ws = some ps) : ps.length = ws.length := by
  unfold split at h
  split at h
  · simp at h
  · simp only [Option.some.injEq] at h
    simp [← h, giveGrams_length, splitBases]

/-! ### Parts against their weights -/

/-- Entries of part and remainder within their weights: with a remainder left, one gram more fits. -/
def Fits (x : Nat × Nat) (w : Nat) : Prop := x.1 ≤ w ∧ (0 < x.2 → x.1 < w)

/-- The entries with a remainder left. -/
def left (xs : List (Nat × Nat)) : Nat := (xs.filter (fun x => decide (0 < x.2))).length

theorem giveFirst_fits (m : Nat) (hm : 0 < m) (xs : List (Nat × Nat)) (ws : List Nat) (h : List.Forall₂ Fits xs ws) :
    List.Forall₂ Fits (giveFirst m xs) ws := by
  induction h with
  | nil => exact .nil
  | @cons x w xs ws hx hs ih =>
    obtain ⟨p, r⟩ := x
    by_cases hr : r = m
    · simp only [giveFirst, hr, if_true]
      refine .cons ⟨?_, ?_⟩ hs
      · have := hx.2 (by simpa [hr] using hm); simp at this; simp; omega
      · intro h0; simp at h0
    · simp only [giveFirst, hr, if_false]; exact .cons hx ih

theorem giveFirst_left (m : Nat) (hm : 0 < m) (xs : List (Nat × Nat)) (h : ∃ x ∈ xs, x.2 = m) :
    left (giveFirst m xs) + 1 = left xs := by
  induction xs with
  | nil => simp at h
  | cons x xs ih =>
    obtain ⟨p, r⟩ := x
    by_cases hr : r = m
    · subst hr; simp [giveFirst, left, hm]
    · have h' : ∃ x ∈ xs, x.2 = m := by
        obtain ⟨y, hy, e⟩ := h
        rcases List.mem_cons.1 hy with rfl | hy
        · exact absurd e hr
        · exact ⟨y, hy, e⟩
      have := ih h'
      simp only [giveFirst, hr, if_false, left, List.filter_cons] at this ⊢
      split <;> simp_all

theorem topRemainder_pos (xs : List (Nat × Nat)) (h : 0 < left xs) : 0 < topRemainder xs := by
  induction xs with
  | nil => simp [left] at h
  | cons x xs ih =>
    obtain ⟨p, r⟩ := x
    by_cases hr : 0 < r
    · exact Nat.lt_of_lt_of_le hr (Nat.le_max_left _ _)
    · have : 0 < left xs := by simpa [left, List.filter_cons, hr] using h
      exact Nat.lt_of_lt_of_le (ih this) (Nat.le_max_right _ _)

theorem giveGrams_fits (n : Nat) (xs : List (Nat × Nat)) (ws : List Nat) (h : List.Forall₂ Fits xs ws) (hn : n ≤ left xs) :
    List.Forall₂ Fits (giveGrams n xs) ws := by
  induction n generalizing xs with
  | zero => exact h
  | succ n ih =>
    have hl : 0 < left xs := by omega
    have hp := topRemainder_pos xs hl
    have hne : xs ≠ [] := by rintro rfl; simp [left] at hl
    have := giveFirst_left _ hp xs (topRemainder_mem xs hne)
    exact ih _ (giveFirst_fits _ hp xs ws h) (by omega)

theorem splitBases_fits (total a : Nat) (hle : total ≤ a) (ws : List Nat) :
    List.Forall₂ Fits (splitBases total a ws) ws := by
  induction ws with
  | nil => exact .nil
  | cons w ws ih =>
    refine .cons ⟨?_, ?_⟩ ih
    · show total * w / a ≤ w
      exact Nat.div_le_of_le_mul (Nat.mul_le_mul_right w hle)
    · intro h
      show total * w / a < w
      have h : 0 < total * w % a := h
      have hd := Nat.div_add_mod (total * w) a
      have hm : total * w ≤ a * w := Nat.mul_le_mul_right w hle
      by_contra hc
      have hc : w ≤ total * w / a := Nat.le_of_not_lt hc
      have := Nat.mul_le_mul_left a hc
      omega

theorem left_bound (a : Nat) (xs : List (Nat × Nat)) (h : ∀ x ∈ xs, x.2 < a) : (xs.map Prod.snd).sum ≤ a * left xs := by
  induction xs with
  | nil => simp
  | cons x xs ih =>
    have ih := ih (fun y hy => h y (List.mem_cons_of_mem _ hy))
    have hx := h x (List.mem_cons_self)
    by_cases hr : 0 < x.2
    · have : left (x :: xs) = left xs + 1 := by simp [left, hr]
      rw [this, Nat.mul_add]; simp; omega
    · have : left (x :: xs) = left xs := by simp [left, hr]
      rw [this]; simp; omega

/-- No part exceeds its weight when the total does not exceed their sum (R156). -/
theorem split_le {total : Nat} {ws ps : List Nat} (h : split total ws = some ps) (hle : total ≤ ws.sum) :
    List.Forall₂ (· ≤ ·) ps ws := by
  unfold split at h
  split at h
  · simp at h
  · rename_i hs
    simp only [Option.some.injEq] at h
    have ha : 0 < ws.sum := Nat.pos_of_ne_zero hs
    have htot := splitBases_total total ws.sum ws
    have hb := left_bound ws.sum (splitBases total ws.sum ws) (by
      intro x hx
      simp only [splitBases, List.mem_map] at hx
      obtain ⟨w, _, rfl⟩ := hx
      exact Nat.mod_lt _ ha)
    have hn : total - ((splitBases total ws.sum ws).map Prod.fst).sum ≤ left (splitBases total ws.sum ws) := by
      have hmul : ws.sum * (total - ((splitBases total ws.sum ws).map Prod.fst).sum)
          ≤ ws.sum * left (splitBases total ws.sum ws) := by
        rw [Nat.mul_sub, Nat.mul_comm ws.sum total]; omega
      exact Nat.le_of_mul_le_mul_left hmul ha
    have hf := giveGrams_fits _ _ ws (splitBases_fits total ws.sum hle ws) hn
    rw [← h, List.forall₂_map_left_iff]
    exact hf.imp (fun _ _ hx => hx.1)

end Sys2Proof.Machine
end

