-- ==== Sys2Proof/Laws/KeptFloor.lean ====
section
/-! SUPPORT. What the operations of the floor, the press and the channels keep. -/

namespace Sys2Proof.Machine

/-! ### Floor -/

/-- The grams of some shares. -/
def gramsOf (shs : List Share) : Nat := (shs.map (·.grams)).sum

theorem lotShares_le (xs : List (Contribution × Nat)) : gramsOf (lotShares xs) ≤ (xs.map Prod.snd).sum := by
  induction xs with
  | nil => exact Nat.le_refl 0
  | cons x xs ih =>
    obtain ⟨c, p⟩ := x
    unfold lotShares
    split
    · simp only [gramsOf, List.map_cons, List.sum_cons] at ih ⊢; omega
    · simp only [gramsOf, List.map_cons, List.sum_cons] at ih ⊢; omega

theorem contributionParts_sum_le (u : Nat) (cs : List Contribution) : (contributionParts u cs).sum ≤ u := by
  unfold contributionParts
  cases h : split u (cs.map (·.dry)) with
  | none => simp
  | some ps => exact Nat.le_of_eq (split_sum h)

theorem contributionParts_length (u : Nat) (cs : List Contribution) : (contributionParts u cs).length = cs.length := by
  unfold contributionParts
  cases h : split u (cs.map (·.dry)) with
  | none => simp
  | some ps => simpa using split_length h

/-- The shares of a filled-in layer sum to its mass (R97). -/
theorem layerShares_sum (u : Nat) (cs : List Contribution) : gramsOf (layerShares u cs) = u := by
  have h := lotShares_le (cs.zip (contributionParts u cs))
  have h2 : ((cs.zip (contributionParts u cs)).map Prod.snd).sum ≤ u := by
    rw [List.map_snd_zip (by rw [contributionParts_length])]
    exact contributionParts_sum_le u cs
  unfold layerShares
  simp only [gramsOf, List.map_append, List.sum_append] at h ⊢
  unfold unassignedShare
  split
  · simp only [List.map_nil, List.sum_nil]; omega
  · simp only [List.map_cons, List.map_nil, List.sum_cons, List.sum_nil]; omega

theorem filledLayer_ok (s : State) (g : Grant) (u : Nat) (l : Layer) : LayerOk (filledLayer s g u l) := by
  refine ⟨layerShares_sum u _, ?_⟩
  intro h
  simp only [filledLayer] at h
  split at h <;> cases h

theorem receives_spec {g : Grant} {l : Layer} (h : receives g l = true) : l.state = .receiving ∧ l.number = g.layer :=
  of_decide_eq_true h

/-- A filled-in layer receives no more, and stands in the book with the mass unloaded (R97). -/
theorem filledLayer_book (s : State) (g : Grant) (u : Nat) (l : Layer) :
    (filledLayer s g u l).state ≠ .receiving ∧ bookMass (filledLayer s g u l) = u := by
  have h : (filledLayer s g u l).state ≠ .receiving := by
    simp only [filledLayer]; split <;> simp
  exact ⟨h, by simp only [bookMass, if_neg h]; rfl⟩

theorem kept_fillLayer (g : Grant) (u : Nat) (s : State) (hg : s.uar.grant = some g) (hu : u ≤ g.net) :
    Kept s (fillLayer g u s) := by
  refine ⟨rfl, id, ?_, id, fun k => ?_⟩
  · intro h l hl
    change l ∈ (if _ then _ else _) at hl
    split at hl
    · exact h l (List.mem_of_mem_filter hl)
    · obtain ⟨m, hm, rfl⟩ := List.mem_map.1 hl
      split
      · exact filledLayer_ok _ _ _ _
      · exact h m hm
  · refine room_setLayers ?_ k
    split
    · exact shrunk_filter _ _
    · refine shrunk_map _ _ fun m hm => ?_
      split
      · rename_i hr
        obtain ⟨h1, h2⟩ := receives_spec hr
        have hp := k.2.2.2 g hg m hm h1 h2
        obtain ⟨b1, b2⟩ := filledLayer_book s g u m
        refine ⟨rfl, ?_, fun h => absurd h b1⟩
        rw [b2, bookMass, if_pos h1, hp]
        exact hu
      · exact .refl m

theorem kept_retireAll (xs : List (Contribution × Nat)) (s : State) : Kept s (retireAll xs s) :=
  kept_foldl (fun s (p : Contribution × Nat) => updateSlot p.1.slot (retire p.1.green p.2) s)
    (fun s _ => kept_updateSlot _ _ s) xs s

theorem kept_completeUnload (g : Grant) (s : State) (hg : s.uar.grant = some g) : Kept s (completeUnload g s) := by
  unfold completeUnload
  extract_lets u cs s1 s2
  have h1 : Kept s s1 := .trans (kept_fillLayer _ _ _ hg (Nat.sub_le _ _)) (kept_retireAll _ _)
  have h2 : Kept s1 s2 := .trans (kept_onUar _ _ fun g h => by cases h) (kept_emptyKiln _ _)
  exact .trans (.trans (.trans (h1.trans h2) (kept_postConveyor _ _)) (kept_decidePress _))
    (.trans (kept_grantTest _) (kept_selectKiln _))

theorem kept_setSettle (d : Option Time) (s : State) : Kept s (setSettle d s) := by
  refine kept_onUar _ s fun g h => ?_
  obtain ⟨g0, h0, rfl⟩ := Option.map_eq_some_iff.1 h
  exact ⟨g0, h0, rfl, rfl⟩

theorem kept_settleNotice (g : Grant) (n : Notice) (s : State) : Kept s (settleNotice g n s) := by
  unfold settleNotice
  split
  · exact kept_setSettle _ _
  · split
    · exact kept_setSettle _ _
    · exact .refl s

theorem kept_uarNotice (n : Notice) (s : State) : Kept s (uarNotice n s) := by
  unfold uarNotice
  extract_lets s1 s2
  have h1 : Kept s s1 := by
    show Kept s (if _ then _ else _)
    split
    · exact kept_postPresentConveyor _
    · exact .refl s
  have h2 : Kept s1 s2 := by
    show Kept s1 (match s1.uar.grant with
      | none => s1
      | some g => if (setupOf s1 g.kiln).scale = n.channel then settleNotice g n s1 else s1)
    split
    · exact .refl _
    · split
      · exact kept_settleNotice _ _ _
      · exact .refl _
  refine (h1.trans h2).trans ?_
  split
  · exact kept_grantTest _
  · exact .refl _

theorem kept_unloadOverrun (g : Grant) (s : State) (hg : s.uar.grant = some g) : Kept s (unloadOverrun g s) :=
  .trans (kept_onUar _ _ fun _ h => by cases h; exact ⟨g, hg, rfl, rfl⟩) (kept_postEvent _ _ _)

theorem readied_ok {l : Layer} (h : LayerOk l) : LayerOk (readied l) := ⟨h.1, fun k => by cases k⟩

theorem readied_became {now : Time} {n : Nat} {l : Layer} (h : restReached now n l = true) : Became l (readied l) := by
  simp only [restReached, Bool.and_eq_true, decide_eq_true_eq] at h
  refine ⟨rfl, ?_, fun k => by cases k⟩
  simp [bookMass, readied, h.1.2]

theorem kept_layerRest (n : Nat) (s : State) : Kept s (layerRest n s) := by
  unfold layerRest
  split
  · refine .trans (kept_setLayers _ s ?_ (shrunk_map _ _ fun m _ => ?_)) (kept_decidePress _)
    · intro h l hl
      obtain ⟨m, hm, rfl⟩ := List.mem_map.1 hl
      split
      · exact readied_ok (h m hm)
      · exact h m hm
    · split
      · rename_i hr
        exact readied_became hr
      · exact .refl m
  · exact .refl s

theorem kept_sweepLayer (l : Layer) (s : State) : Kept s (sweepLayer l s) := by
  unfold sweepLayer
  extract_lets s1
  have h1 : Kept s s1 := kept_foldl (fun s (sh : Share) => if 0 < sh.grams then updateSlot sh.slot (sweep sh.grams) s else s)
    (fun s sh => by
      show Kept s (if _ then _ else _)
      split
      · exact kept_updateSlot _ _ _
      · exact .refl s) _ s
  exact h1.trans (kept_setLayers _ s1 (fun h m hm => h m (List.mem_of_mem_filter hm)) (shrunk_filter _ _))

theorem kept_clearFloor (s : State) : Kept s (clearFloor s) :=
  .trans (.trans (kept_foldl (fun s (l : Layer) => sweepLayer l s) (fun s l => kept_sweepLayer l s) _ s) (kept_decidePress _))
    (kept_grantTest _)

/-! ### Press -/

theorem kept_movePress (st : PressState) (s : State) : Kept s (movePress st s) := .trans (kept_onPru _ _) (kept_decidePress _)

theorem kept_takeChargeStart (s : State) : Kept s (takeChargeStart s) := by
  unfold takeChargeStart; split
  · exact .trans (kept_onPru _ _) (kept_movePress _ _)
  · exact .refl s

theorem kept_takePressCycle (s : State) : Kept s (takePressCycle s) := by
  unfold takePressCycle; split
  · exact kept_movePress _ _
  · exact .refl s

theorem kept_takeBaleTied (s : State) : Kept s (takeBaleTied s) := by
  unfold takeBaleTied; split
  · exact .trans (kept_onPru _ _) (kept_movePress _ _)
  · exact .refl s

theorem kept_idlePress (s : State) : Kept s (idlePress s) := kept_onPru _ s

theorem drawParts_le (d : Nat) (shs : List Share) (h : d ≤ gramsOf shs) :
    List.Forall₂ (· ≤ ·) (drawParts d shs) (shs.map (·.grams)) := by
  unfold drawParts
  cases e : split d (shs.map (·.grams)) with
  | none =>
    simp only [Option.getD_none]
    clear h e
    induction shs with
    | nil => exact .nil
    | cons a as ih => exact .cons (Nat.zero_le _) ih
  | some ps => exact split_le e h

theorem drawParts_sum (d : Nat) (shs : List Share) (h : d ≤ gramsOf shs) : (drawParts d shs).sum = d := by
  unfold drawParts
  cases e : split d (shs.map (·.grams)) with
  | none =>
    unfold split at e
    split at e
    · rename_i h0
      have : d = 0 := by simp only [gramsOf] at h; omega
      simp [this]
    · simp at e
  | some ps => exact split_sum e

theorem drawn_sum (shs : List Share) (ps : List Nat) (h : List.Forall₂ (· ≤ ·) ps (shs.map (·.grams))) :
    gramsOf ((shs.zip ps).map (fun p => { p.1 with grams := p.1.grams - p.2 })) = gramsOf shs - ps.sum ∧ ps.sum ≤ gramsOf shs := by
  induction shs generalizing ps with
  | nil => cases h; exact ⟨rfl, Nat.le_refl 0⟩
  | cons a as ih =>
    cases h with
    | cons h1 h2 =>
      obtain ⟨i1, i2⟩ := ih _ h2
      simp only [gramsOf, List.zip_cons_cons, List.map_cons, List.sum_cons] at i1 i2 ⊢
      rw [i1]
      have h1' : _ ≤ a.grams := h1
      show _ = a.grams + _ - _ ∧ _ ≤ a.grams + _
      omega

/-- A layer keeps its account over a draw that it can give (R114). -/
theorem drawnLayer_ok (d : Nat) (l : Layer) (h : LayerOk l) (hd : d ≤ l.remaining) : LayerOk (drawnLayer d l) := by
  have hle : d ≤ gramsOf l.shares := by rw [gramsOf, h.1]; exact hd
  refine ⟨?_, ?_⟩
  · have := (drawn_sum l.shares _ (drawParts_le d l.shares hle)).1
    simp only [gramsOf] at this
    simp only [drawnLayer, this, h.1, drawParts_sum d l.shares hle]
  · intro k
    simp only [drawnLayer] at k ⊢
    rw [h.2 k]
    rfl

theorem afterDraw_ok (d : Nat) (l : Layer) (h : LayerOk l) (hd : d ≤ l.remaining) : ∀ m ∈ afterDraw d l, LayerOk m := by
  intro m hm
  unfold afterDraw at hm
  split at hm
  · split at hm
    · cases hm
    · rw [List.mem_singleton.1 hm]; exact drawnLayer_ok d l h hd
  · rw [List.mem_singleton.1 hm]; exact h

theorem draws_le (b : Nat) (l m : Layer) (r : List Layer) :
    (draws b (l :: m :: r)).1 ≤ l.remaining ∧ (draws b (l :: m :: r)).2 ≤ m.remaining := by
  simp only [draws]
  split
  · split
    · exact ⟨Nat.le_refl _, Nat.min_le_right _ _⟩
    · exact ⟨Nat.min_le_right _ _, Nat.zero_le _⟩
  · exact ⟨Nat.zero_le _, Nat.zero_le _⟩

/-- The draws of a bale keep every layer's account (R113, R114). -/
theorem drawLayers_ok (b : Nat) (ls : List Layer) (h : ∀ l ∈ ls, LayerOk l) : ∀ m ∈ drawLayers (draws b ls) ls, LayerOk m := by
  intro m hm
  match ls, h with
  | [], _ => cases hm
  | [l], h =>
    refine afterDraw_ok _ l (h l List.mem_cons_self) ?_ m hm
    simp only [draws]
    split
    · exact Nat.min_le_right _ _
    · exact Nat.zero_le _
  | l :: l2 :: r, h =>
    have hd := draws_le b l l2 r
    simp only [drawLayers, List.mem_append] at hm
    rcases hm with (hm | hm) | hm
    · exact afterDraw_ok _ l (h l List.mem_cons_self) hd.1 m hm
    · exact afterDraw_ok _ l2 (h l2 (List.mem_cons_of_mem _ List.mem_cons_self)) hd.2 m hm
    · exact h m (List.mem_cons_of_mem _ (List.mem_cons_of_mem _ hm))

theorem afterDraw_shrunk {d : Nat} {l : Layer} (h : l.state = .ready ∨ d = 0) : Shrunk [l] (afterDraw d l) := by
  unfold afterDraw
  split
  · split
    · exact .leave _ .nil
    · refine .keep ⟨rfl, ?_, fun k => ⟨k, rfl⟩⟩ .nil
      rcases h with h | h
      · simp [bookMass, drawnLayer, h]
      · omega
  · exact .keep (.refl l) .nil

/-- A draw is made from a READY layer (R113). -/
theorem draws_ready (b : Nat) (l m : Layer) (r : List Layer) :
    (l.state = .ready ∨ (draws b (l :: m :: r)).1 = 0) ∧ (m.state = .ready ∨ (draws b (l :: m :: r)).2 = 0) := by
  simp only [draws]
  split
  · rename_i h1
    split
    · rename_i h2; exact ⟨.inl h1, .inl h2.2⟩
    · exact ⟨.inl h1, .inr rfl⟩
  · exact ⟨.inr rfl, .inr rfl⟩

theorem drawLayers_shrunk (b : Nat) : ∀ ls : List Layer, Shrunk ls (drawLayers (draws b ls) ls)
  | []      => .nil
  | [l]     => by
    refine afterDraw_shrunk ?_
    simp only [draws]
    split
    · rename_i h; exact .inl h
    · exact .inr rfl
  | l :: m :: r =>
    ((afterDraw_shrunk (draws_ready b l m r).1).append (afterDraw_shrunk (draws_ready b l m r).2)).append (.refl r)

theorem kept_logBale (b : BaleRecord) (s : State) : Kept s (logBale b s) :=
  .trans (kept_setLayers _ s (fun h => drawLayers_ok _ _ h) (drawLayers_shrunk _ _)) (kept_onPru _ _)

theorem kept_onRefsFull (i : Fin 32) (b s : State) : Kept s (onRefsFull i b s) := by
  unfold onRefsFull; split
  · exact .refl s
  · exact kept_decidePress s

theorem kept_postShare (b : BaleRecord) (i : Fin 32) (g : Nat) (s : State) : Kept s (postShare b i g s) :=
  .trans (kept_updateLot _ _ _) (kept_onRefsFull _ _ _)

theorem kept_postShares (b : BaleRecord) (shs : List Share) (s : State) : Kept s (postShares b shs s).1 := by
  induction shs generalizing s with
  | nil => exact .refl s
  | cons sh shs ih =>
    unfold postShares
    split
    · exact ih s
    · exact .trans (kept_postShare _ _ _ _) (ih _)

theorem kept_postRefsFull (i : Fin 32) (s : State) : Kept s (postRefsFull i s) :=
  .trans (kept_updateLot _ _ _) (kept_onRefsFull _ _ _)

theorem kept_requestPart (w : Fin 32 × Nat) (s : State) : Kept s (requestPart w s) := by
  unfold requestPart
  split
  · exact .refl s
  · split
    rename_i s1 b e
    have h : Kept s s1 := by have := kept_partRequest w.1 w.2 s; rw [e] at this; exact this
    split
    · exact h
    · exact h.trans (.trans (kept_onPru _ _) (kept_postRefsFull _ _))

theorem kept_postBaleEvents (b : BaleRecord) (s : State) : Kept s (postBaleEvents b s) := by
  unfold postBaleEvents
  extract_lets s1
  have h : Kept s s1 := kept_postEvent _ _ _
  split
  · exact h.trans (kept_postEvent _ _ _)
  · exact h

theorem kept_closeBale (g : Nat) (u : Bool) (s : State) : Kept s (closeBale g u s) := by
  unfold closeBale
  extract_lets b d
  split
  rename_i s1 ws e
  have h1 : Kept s s1 := by
    have := (kept_logBale b s).trans (kept_postShares b b.shares _); rw [e] at this; exact this
  extract_lets s2 s3
  have h2 : Kept s1 s2 := .trans (kept_postBaleEvents _ _) (kept_idlePress _)
  have h3 : Kept s2 s3 := .trans (kept_foldl (fun s w => requestPart w s) (fun s w => kept_requestPart w s) _ _)
    (kept_decidePress _)
  have h := (h1.trans h2).trans h3
  split
  · exact h.trans (kept_grantTest _)
  · exact h

theorem kept_pressSettle (s : State) : Kept s (pressSettle s) := kept_closeBale _ _ s

theorem kept_pruNotice (n : Notice) (s : State) : Kept s (pruNotice n s) := by
  unfold pruNotice
  split
  · extract_lets s1
    have h : Kept s s1 := by
      show Kept s (if _ then _ else _)
      split
      · exact kept_closeBale _ _ _
      · exact .refl s
    split
    · exact h.trans (kept_decidePress _)
    · exact h
  · exact .refl s

/-! ### Channels -/

theorem kept_itkNotice (n : Notice) (s : State) : Kept s (itkNotice n s) := by
  unfold itkNotice
  extract_lets s1
  have h : Kept s s1 := by
    show Kept s (if _ then _ else _)
    split
    · exact kept_beltArrival _ _ _ _
    · exact .refl s
  split
  · exact h.trans (kept_decideFeed _)
  · exact h

theorem kept_kfrNotice (n : Notice) (s : State) : Kept s (kfrNotice n s) := by
  unfold kfrNotice
  split
  · split
    · exact kept_selectKiln s
    · exact kept_lowRoomClose s
  · exact .refl s

theorem kept_kcNotice (k : Fin 4) (n : Notice) (s : State) : Kept s (kcNotice k n s) := by
  unfold kcNotice
  split
  · split
    · split
      · exact kept_holdKiln _ _ _
      · exact .refl s
    · split
      · exact kept_holdKiln _ _ _
      · exact .refl s
  · exact .refl s

theorem kept_consume (n : Notice) (s : State) (c : Consumer) : Kept s (consume n s c) := by
  cases c
  · exact kept_itkNotice n s
  · exact kept_kfrNotice n s
  · exact kept_kcNotice _ n s
  · exact kept_uarNotice n s
  · exact kept_pruNotice n s

theorem kept_deliver (n : Notice) (s : State) : Kept s (deliver n s) :=
  .trans (kept_inChosenOrder consumers s) (kept_foldl (fun s c => consume n s c) (fun s c => kept_consume n s c) _ _)

theorem kept_deliverAll (ns : List Notice) (s : State) : Kept s (deliverAll ns s) :=
  .trans (kept_inChosenOrder (ns.flatMap (fun n => consumers.map (fun c => (n, c)))) s)
    (kept_foldl (fun s (p : Notice × Consumer) => consume p.1 s p.2) (fun s p => kept_consume p.1 s p.2) _ _)

theorem kept_goodArrival (i : Fin 64) (e : SampleEntry) (s : State) : Kept s (goodArrival i e s) :=
  .trans (kept_setChannel _ _ _) (kept_deliver _ _)

theorem kept_faultArrival (i : Fin 64) (s : State) : Kept s (faultArrival i s) := by
  unfold faultArrival
  extract_lets c s1
  have h : Kept s s1 := kept_setChannel _ _ _
  split
  · exact h
  · exact h.trans (.trans (kept_postEvent _ _ _) (kept_deliver _ _))

theorem kept_takeEntry (n : Nat) (s : State) (e : SampleEntry) : Kept s (takeEntry n s e) := by
  unfold takeEntry
  split
  · exact .refl s
  · split
    · exact kept_faultArrival _ _
    · exact kept_goodArrival _ _ _

theorem kept_readSample (f : Frame) (s : State) : Kept s (readSample f s) := kept_foldl _ (kept_takeEntry _) _ s

theorem kept_channelStale (i : Fin 64) (s : State) : Kept s (channelStale i s) :=
  .trans (.trans (kept_setChannel _ _ _) (kept_postEvent _ _ _)) (kept_deliver _ _)

theorem kept_restartChannels (s : State) : Kept s (restartChannels s) := .trans (kept_setChannels _ _) (kept_deliverAll _ _)

end Sys2Proof.Machine
end

