-- ==== Sys2Proof/Laws/KeptLink.lean ====
section
/-! SUPPORT. What the operations of the link and the owners of the requests keep. -/

namespace Sys2Proof.Machine

/-! ### Receiving, the guard -/

theorem kept_heard (s : State) : Kept s (heard s) := kept_onRluApart _ s rfl rfl rfl rfl rfl

theorem kept_accept (f : Frame) (handle : State → State) (h : ∀ s, Kept s (handle s)) (s : State) :
    Kept s (accept f handle s) := by
  unfold accept
  extract_lets s1
  have h1 : Kept s s1 := .trans (kept_heard s) (kept_withCounts _ _)
  split
  · exact h1.trans (kept_withCounts _ _)
  · exact h1.trans (h _)

theorem kept_dropBad (s : State) : Kept s (dropBad s) :=
  .trans (.trans (kept_heard _) (kept_withCounts _ _)) (kept_postEvent _ _ _)

theorem kept_countRewrite (f : ActuatorFunction) (s : State) : Kept s (countRewrite f s) := kept_withCounts _ s

theorem kept_guardValue (n m v : Nat) (s : State) : Kept s (guardValue n m v s).2 := by
  unfold guardValue
  split
  · split
    · exact .refl s
    · split
      · exact .refl s
      · exact kept_countRewrite _ s
  · exact .refl s

theorem kept_passCommand (f : Frame) (s : State) : Kept s (passCommand f s) := by
  unfold passCommand
  split
  · split
    · exact .trans (kept_guardValue _ _ _ s) (kept_forward _ _)
    · exact kept_withCounts _ s
  · exact kept_forward f s

/-! ### Insertion and the choice at a frame boundary -/

theorem kept_send (f : Frame) (s : State) : Kept s (send f s) := kept_onRluApart _ s rfl rfl rfl rfl rfl

theorem kept_useFreeValue (s : State) : Kept s (useFreeValue s) := .apart rfl rfl rfl rfl rfl rfl rfl

theorem kept_insertCommand (c : Command) (rest : List Command) (s : State) (h : s.rlu.commands = c :: rest) :
    Kept s (insertCommand c rest s) := by
  have h0 : Kept s (onRlu (fun b => { b with commands := rest }) s) := by
    refine kept_onRlu _ s ?_
    rintro ⟨hb, hv, hn⟩
    rw [h] at hv hn
    exact ⟨hb, fun x hx => hv x (List.mem_cons_of_mem _ hx), (List.nodup_cons.1 hn).2⟩
  exact .trans (.trans (h0.trans (kept_guardValue _ _ _ _)) (kept_withCounts _ _)) (kept_send _ _)

theorem kept_insertReply (r : Reply) (rest : List Reply) (s : State) (h : s.rlu.replies = r :: rest) :
    Kept s (insertReply r rest s) := by
  have h0 : Kept s (onRlu (fun b => { b with replies := rest }) s) := by
    refine kept_onRlu _ s ?_
    rintro ⟨⟨a, b, c, d, e⟩, hc⟩
    rw [h] at b
    exact ⟨⟨a, Nat.le_of_succ_le b, c, d, e⟩, hc⟩
  exact .trans (h0.trans (kept_withCounts _ _)) (kept_send _ _)

theorem kept_insertReport (r : Report) (rest : List Report) (s : State) (h : s.rlu.reports = r :: rest) :
    Kept s (insertReport r rest s) := by
  have h0 : Kept s (onRlu (fun b => { b with reports := rest }) s) := by
    refine kept_onRlu _ s ?_
    rintro ⟨⟨a, b, c, d, e⟩, hc⟩
    rw [h] at c
    exact ⟨⟨a, b, Nat.le_of_succ_le c, d, e⟩, hc⟩
  exact .trans (h0.trans (kept_withCounts _ _)) (kept_send _ _)

theorem kept_insertSegment (seg : Segment) (s : State) : Kept s (insertSegment seg s) :=
  .trans (.trans (.trans (.trans (kept_useFreeValue s) (kept_withdraw _)) (kept_withCounts _ _)) (kept_send _ _))
    (kept_segmentInserted _ _)

theorem kept_insertFrame (s : State) : Kept s (insertFrame s) := by
  unfold insertFrame
  split
  · rename_i h; exact kept_insertCommand _ _ s h
  · rename_i _ h; exact kept_insertReply _ _ s h
  · rename_i h; exact kept_insertReport _ _ s h
  · exact kept_insertSegment _ s
  · exact .refl s

theorem kept_setStarvation (n : Nat) (s : State) (h : LinkInv s → n ≤ 64) : Kept s (setStarvation n s) :=
  kept_onRlu _ s (fun k => ⟨⟨k.1.1, k.1.2.1, k.1.2.2.1, h k, k.1.2.2.2.2⟩, k.2⟩)

theorem kept_sendThrough (f : Frame) (rest : List Frame) (n : Nat) (s : State) (hp : s.rlu.passBuffer = f :: rest)
    (hn : LinkInv s → n ≤ 64) : Kept s (sendThrough f rest n s) := by
  have h0 : Kept s (setStarvation n (onRlu (fun b => { b with passBuffer := rest }) s)) := by
    refine ⟨rfl, ?_, id, id, id⟩
    intro k
    have k2 := hn k
    obtain ⟨⟨a, b, c, d, e⟩, hc⟩ := k
    rw [hp] at a
    exact ⟨⟨Nat.le_of_succ_le a, b, c, k2, e⟩, hc⟩
  exact h0.trans (kept_send _ _)

theorem starvationLimit_le (s : State) (h : LinkInv s) : starvationLimit s ≤ 64 := by
  unfold starvationLimit
  split
  · exact h.1.2.2.2.2 (by assumption)
  · exact Nat.le_refl _

theorem kept_choose (s : State) : Kept s (choose s) := by
  unfold choose
  have h0 : Kept s (setStarvation 0 s) := kept_setStarvation 0 s (fun _ => Nat.zero_le _)
  split
  · split
    · exact h0.trans (kept_insertFrame _)
    · exact .refl s
  · rename_i hp
    split
    · split
      · rename_i hlt
        exact kept_sendThrough _ _ _ s hp (fun k => Nat.le_trans hlt (starvationLimit_le s k))
      · exact h0.trans (kept_insertFrame _)
    · exact kept_sendThrough _ _ _ s hp (fun _ => Nat.zero_le _)

theorem kept_startPortB (s : State) : Kept s (startPortB s) := by
  unfold startPortB; split
  · exact kept_choose s
  · exact .refl s

theorem kept_frameBoundary (s : State) : Kept s (choose (onRlu (fun b => { b with portB := none }) s)) :=
  .trans (kept_onRluApart _ s rfl rfl rfl rfl rfl) (kept_choose _)

theorem kept_silenceTest (s : State) : Kept s (silenceTest s) := by
  unfold silenceTest; split
  · exact .trans (kept_onRluApart _ s rfl rfl rfl rfl rfl) (kept_postEvent _ _ _)
  · exact .refl s

/-! ### Ring restart -/

theorem kept_restartTickets (s : State) : Kept s (restartTickets s) :=
  .trans (kept_onTku _ s (fun _ => Nat.zero_le _)) (kept_exhaustedTest _)

theorem kept_restartBlock (s : State) (b : RestartBlock) : Kept s (restartBlock s b) := by
  cases b
  · exact kept_restartTickets s
  · exact kept_restartChannels s
  · exact kept_onRct _ s

theorem kept_emptyLink (s : State) : Kept s (emptyLink s) :=
  kept_onRlu _ s (fun k => ⟨⟨Nat.zero_le _, Nat.zero_le _, Nat.zero_le _, Nat.zero_le _, k.1.2.2.2.2⟩,
    fun _ hx => absurd hx List.not_mem_nil, List.nodup_nil⟩)

theorem kept_ringRestart (f : Frame) (s : State) : Kept s (ringRestart f s) :=
  .trans (.trans (.trans (kept_withCounts _ s) (kept_emptyLink _)) (.trans (kept_forward f _)
    (kept_inChosenOrder [RestartBlock.tku, .smn, .rct] _))) (kept_foldl restartBlock kept_restartBlock _ _)

/-! ### Marks and the handling of a request -/

theorem kept_takeHook (s : State) : Kept s (takeHook s) := by
  unfold takeHook
  split
  · exact kept_postEvent _ _ _
  · split
    · exact .trans (kept_countHook _ _) (kept_endHooking _ _)
    · exact kept_countHook _ _

theorem kept_takeHookShort (s : State) : Kept s (takeHookShort s) := by
  unfold takeHookShort
  split
  · exact kept_postEvent _ _ _
  · exact .trans (kept_countHook _ _) (kept_endHooking _ _)

theorem kept_takeUnloadDone (n : Nat) (s : State) : Kept s (takeUnloadDone n s) := by
  unfold takeUnloadDone
  split
  · exact .refl s
  · rename_i hg
    split
    · exact kept_completeUnload _ _ hg
    · exact .refl s

theorem kept_handleMark (f : Frame) (node : StationConfig → Nat) (act : State → State) (h : ∀ s, Kept s (act s)) (s : State) :
    Kept s (handleMark f node act s) := by
  unfold handleMark
  refine .trans ?_ (kept_forward f _)
  split
  · exact h s
  · exact .refl s

/-- An owner that keeps. -/
def OwnerKept (owner : State → State × Answer) : Prop := ∀ s, Kept s (owner s).1

theorem kept_pair {s t : State} {a : Answer} (h : Kept s t) : Kept s (Prod.mk t a).1 := h

theorem kept_answer (r : Request) (n : Nat) (s : State) (h : OwnerKept r.owner) : Kept s (answer r n s).1 := by
  unfold answer
  split
  · exact .refl s
  · split
    · exact .refl s
    · split
      · exact .refl s
      · exact h s

theorem kept_serve (f : Frame) (r : Request) (h : OwnerKept r.owner) (s : State) : Kept s (serve f r s) := by
  unfold serve
  split
  · exact .refl s
  · exact .trans (kept_answer r _ s h) (kept_postReply _ _)

theorem kept_handleRequest (f : Frame) (r : Request) (h : OwnerKept r.owner) (s : State) : Kept s (handleRequest f r s) := by
  unfold handleRequest
  split
  · exact .trans (kept_withCounts _ s) (kept_serve f r h _)
  · exact kept_forward f s

theorem kept_takeFrame (b : Bool) (f : Frame) (handle : State → State) (h : ∀ s, Kept s (handle s)) (s : State) :
    Kept s (takeFrame b f handle s) := by
  unfold takeFrame
  split
  · exact .trans (kept_accept f handle h s) (kept_startPortB _)
  · exact .refl s

theorem kept_takeRequest (b : Bool) (f : Frame) (r : Request) (h : OwnerKept r.owner) (s : State) :
    Kept s (takeRequest b f r s) := kept_takeFrame b f _ (kept_handleRequest f r h) s

/-! ### Owners of table requests -/

theorem kept_readAnswer (lo hi : Nat) (e : State → List (List Byte)) (f : Frame) :
    OwnerKept (fun s => readAnswer lo hi (e s) f s) := by
  intro s
  simp only [readAnswer]
  split
  · exact .refl s
  · exact .refl s

theorem kept_inWindow (f : Frame) (lo hi : Nat) (owner : State → State × Answer) (h : OwnerKept owner) :
    OwnerKept (inWindow f lo hi owner) := by
  intro s
  unfold inWindow
  split
  · exact h s
  · exact .refl s

theorem kept_writeChannels (f : Frame) : OwnerKept (writeChannels f) := by
  intro s
  unfold writeChannels
  split
  · exact .refl s
  · extract_lets t
    split
    · exact .trans (kept_setChannels t s) (kept_deliverAll _ _)
    · exact .refl s

/-- The actuator table replaced, and the commands that no valid entry of it names taken out (R170). -/
theorem kept_purge (t : Tab Actuator 24) (s : State) : Kept s (purgeCommands t (setActuators t s)) := by
  refine ⟨rfl, ?_, id, id, id⟩
  rintro ⟨hb, _, hn⟩
  refine ⟨hb, ?_, ?_⟩
  · intro c hc
    obtain ⟨_, h2⟩ := List.mem_filter.1 hc
    obtain ⟨a, ha, h3⟩ := List.any_eq_true.1 h2
    rw [Bool.and_eq_true] at h3
    obtain ⟨e1, e2⟩ := of_decide_eq_true h3.2
    exact ⟨a, ha, h3.1, by simp only [entryActuator, commandActuator, e1, e2]⟩
  · exact List.Nodup.sublist (List.Sublist.map _ List.filter_sublist) hn

theorem kept_writeActuators (f : Frame) : OwnerKept (writeActuators f) := by
  intro s
  unfold writeActuators
  extract_lets es t
  split
  · exact .refl s
  · exact .trans (kept_useFreeValue s) (kept_purge t _)

theorem kept_writeNodeClasses (f : Frame) : OwnerKept (writeNodeClasses f) := by
  intro s
  unfold writeNodeClasses
  split
  · exact .refl s
  · exact kept_onMgu _ s id id id

theorem kept_writeSetups (f : Frame) : OwnerKept (writeSetups f) := by
  intro s
  unfold writeSetups
  extract_lets es
  split
  · exact .refl s
  · exact .trans (.trans (.trans (kept_onKfr _ s) (kept_selectKiln _)) (kept_lowRoomClose _)) (kept_decideFeed _)

theorem kept_resetBelt (b : Bool) (s : State) : Kept s (resetBelt b s) := by
  unfold resetBelt; split
  · exact kept_onItk _ s
  · exact .refl s

theorem kept_retimeSilence (b : Bool) (s : State) : Kept s (retimeSilence b s) := by
  unfold retimeSilence; split
  · exact kept_onRluApart _ s rfl rfl rfl rfl rfl
  · exact kept_silenceTest s

theorem kept_configTest (b c : Bool) (s : State) (r : ConfigReader) : Kept s (configTest b c s r) := by
  cases r
  · exact .trans (kept_resetBelt _ _) (kept_decideFeed _)
  · exact kept_lowRoomClose s
  · exact kept_grantTest s
  · exact kept_decidePress s
  · exact kept_retimeSilence _ s

theorem kept_configWritten (m : Mgu) (s : State) : Kept s (configWritten m s) :=
  .trans (kept_inChosenOrder [ConfigReader.itk, .kfr, .uar, .pru, .rlu] s) (kept_foldl (configTest _ _) (kept_configTest _ _) _ _)

theorem clampConfig_guard (c : StationConfig) : (clampConfig c).starvationGuard ≤ 64 := by
  show clampNat 4 64 c.starvationGuard ≤ 64
  unfold clampNat
  split
  · decide
  · split
    · exact Nat.le_refl _
    · omega

theorem kept_writeConfig (f : Frame) : OwnerKept (writeConfig f) := by
  intro s
  unfold writeConfig
  extract_lets c
  split
  · rename_i h
    rw [Bool.and_eq_true, decide_eq_true_eq] at h
    exact .trans (kept_onMgu (fun b => { b with config := c, configValid := true }) s (fun _ _ => clampConfig_guard _) id
      fun _ => h.2) (kept_configWritten _ _)
  · exact .refl s

theorem kept_refuseWrite : OwnerKept refuseWrite := fun s => .refl s

/-! ### Owners of the set-up requests -/

theorem kept_setStaging (g : Option Staging) (s : State) : Kept s (setStaging g s) := kept_onRct _ s

theorem kept_beginRecipe (f : Frame) : OwnerKept (beginRecipe f) := by
  intro s
  unfold beginRecipe
  extract_lets n d r
  split
  · exact .refl s
  · exact kept_setStaging _ s

theorem kept_stageRecipe (f : Frame) : OwnerKept (stageRecipe f) := by
  intro s
  unfold stageRecipe
  split
  · exact .refl s
  · split
    · exact kept_setStaging _ s
    · split
      · exact .refl s
      · exact kept_setStaging _ s

theorem kept_endRecipe (f : Frame) : OwnerKept (endRecipe f) := by
  intro s
  unfold endRecipe
  split
  · exact .refl s
  · split
    · exact kept_setStaging _ s
    · exact .trans (kept_onRct _ s) (kept_setStaging _ _)

theorem kept_setTime (f : Frame) : OwnerKept (setTime f) := fun s => kept_onMgu _ s id id id

/-- A change of every event cell that keeps the counts at 255 or below. -/
theorem kept_mapEvents (g : Fin 24 → EventCell → EventCell) (h : ∀ i e, e.count ≤ 255 → (g i e).count ≤ 255) (s : State) :
    Kept s (mapEvents g s) := by
  refine kept_onMgu (fun b => { b with events := b.events.mapIdx g }) s id (fun k e he => ?_) id
  obtain ⟨i, rfl⟩ := Tab.exists_get_of_mem _ he
  rw [Tab.get_mapIdx]
  exact h i _ (k _ (Tab.mem_cells _ i))

theorem kept_enableEvents (f : Frame) : OwnerKept (enableEvents f) := by
  intro s
  unfold enableEvents
  extract_lets s1
  have h1 : Kept s s1 := by
    refine kept_mapEvents _ ?_ s
    exact fun _ _ k => k
  clear_value s1
  exact kept_pair (h1.trans (kept_onMgu _ s1 id id id))

theorem kept_clearEvents (f : Frame) : OwnerKept (clearEvents f) := by
  intro s
  refine kept_pair (kept_mapEvents _ ?_ s)
  intro i e k
  split
  · exact Nat.zero_le _
  · exact k

theorem kept_orphanCheck (s : State) (k : Fin 4) : Kept s (orphanCheck s k) := by
  unfold orphanCheck; split
  · exact .trans (.trans (kept_moveKiln _ _ _) (kept_postBurner _ _ _)) (kept_postEvent _ _ _)
  · exact .refl s

theorem kept_startDevice : OwnerKept startDevice := by
  intro s
  unfold startDevice
  split
  · exact .refl s
  · extract_lets s1
    have h1 : Kept s s1 := kept_onMgu _ s id id id
    split
    rename_i order s2 e
    have h2 : Kept s1 s2 := by have := kept_inChosenOrder (List.finRange 4) s1; rw [e] at this; exact this
    extract_lets s3
    have h3 : Kept s2 s3 := kept_foldl orphanCheck kept_orphanCheck _ _
    exact kept_pair (((h1.trans h2).trans h3).trans (.trans (.trans (.trans (kept_hookingTest _) (kept_decideFeed _))
      (kept_selectKiln _)) (kept_decidePress _)))

/-! ### Owners of the job requests -/

theorem kept_openLot (f : Frame) : OwnerKept (openLot f) := by
  intro s
  unfold openLot
  split
  · exact .refl s
  · split
    · exact .refl s
    · split
      · exact .refl s
      · split
        · exact .refl s
        · exact .trans (.trans (.trans (kept_setLot _ _ s) (kept_onItk _ _)) (kept_hookingTest _)) (kept_decideFeed _)

theorem kept_cancelLot (f : Frame) : OwnerKept (cancelLot f) := by
  intro s
  unfold cancelLot
  split
  · exact .refl s
  · split
    · exact .trans (kept_onItk _ s) (kept_setLot _ _ _)
    · exact .refl s

theorem kept_endLot (f : Frame) : OwnerKept (endLot f) := by
  intro s
  unfold endLot
  split
  · exact .refl s
  · split
    · exact kept_endHooking _ _
    · exact .refl s

theorem kept_forKiln (f : Frame) (owner : Fin 4 → State → State × Answer) (h : ∀ k, OwnerKept (owner k)) :
    OwnerKept (forKiln f owner) := by
  intro s
  unfold forKiln
  split
  · exact .refl s
  · exact h _ s

theorem kept_startKiln (k : Fin 4) : OwnerKept (startKiln k) := by
  intro s
  unfold startKiln; split
  · exact kept_pair (kept_startDrying k s)
  · exact .refl s

theorem kept_holdRequest (k : Fin 4) : OwnerKept (holdRequest k) := by
  intro s
  unfold holdRequest; split
  · exact kept_holdKiln k _ s
  · exact .refl s

theorem kept_resumeRequest (k : Fin 4) : OwnerKept (resumeRequest k) := by
  intro s
  unfold resumeRequest; split
  · split
    · exact kept_resume _ _ _
    · exact .refl s
  · exact .refl s

theorem kept_forceEnd (k : Fin 4) : OwnerKept (forceEnd k) := by
  intro s
  unfold forceEnd; split
  · exact kept_pair (kept_forceLoaded k s)
  · exact kept_pair (kept_forceRunning k s)
  · exact kept_pair (kept_forceRunning k s)
  · exact kept_pair (kept_forceOrphan k s)
  · exact .refl s

theorem kept_closeFill (k : Fin 4) : OwnerKept (closeFill k) := by
  intro s
  unfold closeFill; split
  · exact kept_enterLoaded k s
  · exact .refl s

theorem kept_clearKiln (k : Fin 4) : OwnerKept (clearKiln k) := by
  intro s
  unfold clearKiln; split
  · exact .trans (kept_emptyKiln k s) (kept_selectKiln _)
  · exact .refl s

theorem kept_recipeRequest (f : Frame) (k : Fin 4) : OwnerKept (recipeRequest f k) := by
  intro s
  unfold recipeRequest; split
  · exact .refl s
  · exact kept_onKfr _ s

theorem kept_clearFloorRequest : OwnerKept clearFloorRequest := by
  intro s
  unfold clearFloorRequest; split
  · exact kept_clearFloor s
  · exact .refl s

theorem kept_abortPress : OwnerKept abortPress := by
  intro s
  unfold abortPress; split
  · exact .trans (kept_idlePress s) (kept_decidePress _)
  · exact .refl s

theorem kept_sendTests (s : State) : Kept s (sendTests s) := .trans (kept_exhaustedTest s) (kept_offerTest _)

theorem kept_setCredits (n : Nat) (s : State) (h : n ≤ 255) : Kept s (setCredits n s) := kept_onTku _ s (fun _ => h)

theorem kept_addCredits (f : Frame) : OwnerKept (addCredits f) := by
  intro s
  unfold addCredits; split
  · exact .trans (kept_setCredits _ s (Nat.min_le_left _ _)) (kept_sendTests _)
  · exact .refl s

/-- A field of one byte is at most 255. -/
theorem field_one_le (bs : List Byte) (off : Nat) : field bs off 1 ≤ 255 := by
  unfold field beNat
  match bs.drop off with
  | [] => exact Nat.zero_le _
  | b :: _ =>
    show 0 * 256 + b.toNat ≤ 255
    have := b.isLt
    omega

theorem kept_setCreditsRequest (f : Frame) : OwnerKept (setCreditsRequest f) := by
  intro s
  unfold setCreditsRequest
  extract_lets n s1
  have h1 : Kept s s1 := kept_setCredits _ s (field_one_le _ _)
  refine .trans (h1.trans ?_) (kept_sendTests _)
  split
  · exact kept_withdraw _
  · exact .refl _

theorem kept_stopTickets : OwnerKept stopTickets := fun s => .trans (kept_onTku _ s id) (kept_withdraw _)

theorem kept_runTickets : OwnerKept runTickets := by
  intro s
  unfold runTickets
  show Kept s (if _ then _ else _)
  split
  · exact .refl s
  · exact .trans (kept_onTku _ s id) (kept_sendTests _)

theorem kept_rewindTickets : OwnerKept rewindTickets := fun s =>
  .trans (.trans (kept_onTku _ s id) (kept_withdraw _)) (kept_sendTests _)

theorem kept_releaseTicket (f : Frame) : OwnerKept (releaseTicket f) := by
  intro s
  unfold releaseTicket; split
  · exact .refl s
  · split
    · exact .refl s
    · split
      · exact .trans (kept_onTku _ s id) (kept_buildTest _)
      · exact .refl s

theorem kept_statusRead (f : Frame) (form : State → Option View) : OwnerKept (statusRead f form).owner := fun s => .refl s

/-! ### Deadlines -/

theorem kept_atDeadline (b : Bool) (act : State → State) (h : ∀ s, Kept s (act s)) (s : State) :
    Kept s (atDeadline b act s) := by
  unfold atDeadline; split
  · exact .trans (h s) (kept_startPortB _)
  · exact .refl s

theorem kept_takeTransit (s : State) : Kept s (takeTransit s) := by
  unfold takeTransit; split
  · exact .refl s
  · exact kept_transitSwitch _ _ s

theorem kept_overdryReached (k : Fin 4) (s : State) : Kept s (overdryReached k s) :=
  .trans (kept_modifyKiln _ _ s) (kept_postEvent _ _ _)

theorem kept_withGrant (act : Grant → State → State) (h : ∀ g s, s.uar.grant = some g → Kept s (act g s)) (s : State) :
    Kept s (withGrant act s) := by
  unfold withGrant; split
  · exact .refl s
  · rename_i hg; exact h _ s hg

theorem kept_nextSecondOfDay (s : State) : Kept s (nextSecondOfDay s) := kept_onMgu _ s id id id

end Sys2Proof.Machine
end

