-- ==== Sys2Proof/Laws/Kilns.lean ====
section
/-! SUPPORT. What the kiln controllers' operations change of a kiln, and what the selection and the hooking start leave alone. -/

namespace Sys2Proof.Machine

/-! ### One kiln changed -/

theorem modifyKiln_self (k : Fin 4) (f : Kiln → Kiln) (s : State) : (modifyKiln k f s).kilns.get k = f (s.kilns.get k) :=
  Tab.get_modify_self _ _ _

theorem modifyKiln_other {k j : Fin 4} (f : Kiln → Kiln) (s : State) (h : j ≠ k) :
    (modifyKiln k f s).kilns.get j = s.kilns.get j := Tab.get_modify_ne _ _ (Ne.symm h)

theorem moveKiln_self (k : Fin 4) (st : KilnState) (s : State) :
    (moveKiln k st s).kilns.get k = { s.kilns.get k with state := st } := by
  unfold moveKiln; rw [(posted_decideFeed _).kilns]; exact modifyKiln_self _ _ _

theorem moveKiln_other {k j : Fin 4} (st : KilnState) (s : State) (h : j ≠ k) :
    (moveKiln k st s).kilns.get j = s.kilns.get j := by
  unfold moveKiln; rw [(posted_decideFeed _).kilns]; exact modifyKiln_other _ _ h

/-! ### Load flags -/

theorem markForced_posted (k : Fin 4) (s : State) :
    Posted (modifyKiln k (fun kl => { kl with forced := true }) s) (markForced k s) := posted_forEachLot k _ _

theorem markSuspect_posted (k : Fin 4) (s : State) :
    Posted (setLoad k { loadOf s k with suspect := true } s) (markSuspect k s) := posted_forEachLot k _ _

/-! ### The estimate (R71) -/

/-- An estimate changes one kiln: the estimate and suspect run with a LIVE scale, else the debounce count. -/
theorem formEstimate_kilns (k : Fin 4) (s : State) :
    (∀ j, j ≠ k → (formEstimate k s).kilns.get j = s.kilns.get j) ∧
    (formEstimate k s).kilns.get k =
      if isLive s (setupOf s k).scale then
        { s.kilns.get k with
          estimate := (moistureEstimate (netOf s k) (dryTotal (loadOf s k))).1
          suspectRun := (moistureEstimate (netOf s k) (dryTotal (loadOf s k))).2 }
      else { s.kilns.get k with debounce := 0 } := by
  have step (f : Kiln → Kiln) (t : State) (h : t.kilns = (modifyKiln k f s).kilns) :
      (∀ j, j ≠ k → t.kilns.get j = s.kilns.get j) ∧ t.kilns.get k = f (s.kilns.get k) :=
    h ▸ ⟨fun _ hj => modifyKiln_other f s hj, modifyKiln_self k f s⟩
  unfold formEstimate
  split
  · split
    rename_i m suspect hm
    rw [hm]
    split
    · rename_i hs
      extract_lets s1
      simp only [hs]
      split
      · exact step _ _ rfl
      · refine step (fun kl => { kl with estimate := m, suspectRun := true }) _ ?_
        rw [(posted_postEvent _ _ _).kilns]
        split
        · rfl
        · rw [(markSuspect_posted k s1).kilns]; rfl
    · rename_i hs
      have : suspect = false := by simpa using hs
      subst this
      exact step _ _ rfl
  · exact step _ _ rfl

/-- An estimate reads settings and changes none. -/
theorem formEstimate_settings (k : Fin 4) (s : State) :
    (formEstimate k s).mgu.config = s.mgu.config ∧ (formEstimate k s).channels = s.channels ∧
    (formEstimate k s).kfr.setups = s.kfr.setups ∧ (formEstimate k s).clock = s.clock := by
  have mark (t : State) : (markSuspect k t).mgu.config = t.mgu.config ∧ (markSuspect k t).channels = t.channels ∧
      (markSuspect k t).kfr.setups = t.kfr.setups ∧ (markSuspect k t).clock = t.clock := by
    have h := markSuspect_posted k t
    exact ⟨by rw [h.mgu]; rfl, by rw [h.channels]; rfl, by rw [h.kfr]; rfl, by rw [h.clock]; rfl⟩
  unfold formEstimate
  split
  · split
    split
    · extract_lets s1
      split
      · exact ⟨rfl, rfl, rfl, rfl⟩
      · have h := posted_postEvent .scaleSuspect (kilnContext k) (if (loadOf s k).suspect then s1 else markSuspect k s1)
        rw [h.mgu, h.channels, h.kfr, h.clock]
        split
        · exact ⟨rfl, rfl, rfl, rfl⟩
        · exact mark s1
    · exact ⟨rfl, rfl, rfl, rfl⟩
  · exact ⟨rfl, rfl, rfl, rfl⟩

/-! ### EMPTY (R65, R96) -/

/-- A kiln enters EMPTY: every field but burner and fan bound and the values last posted is at power-on, its load is cleared, and
the floor, the grant and the other kilns stand. -/
theorem emptyKiln_spec (k : Fin 4) (s : State) :
    let kl := s.kilns.get k
    (emptyKiln k s).kilns.get k = { Kiln.powerOn with
      burnerBound := kl.burnerBound, fanBound := kl.fanBound, lastBurner := kl.lastBurner, lastFan := kl.lastFan } ∧
    (∀ j, j ≠ k → (emptyKiln k s).kilns.get j = s.kilns.get j) ∧
    (emptyKiln k s).kfr = { s.kfr with loads := s.kfr.loads.set k LoadRecord.cleared } ∧
    (emptyKiln k s).cfl = s.cfl ∧ (emptyKiln k s).uar = s.uar := by
  intro kl
  unfold emptyKiln
  refine ⟨?_, fun j hj => ?_, ?_, ?_, ?_⟩
  · rw [moveKiln_self, modifyKiln_self]; rfl
  · rw [moveKiln_other _ _ hj, modifyKiln_other _ _ hj]; rfl
  · unfold moveKiln; rw [(posted_decideFeed _).kfr]; rfl
  · unfold moveKiln; rw [(posted_decideFeed _).cfl]; rfl
  · unfold moveKiln; rw [(posted_decideFeed _).uar]; rfl

/-! ### The selection test and the hooking start test (R25, R47) -/

/-- The feed permit's decision changes the permit and its cause of the intake. -/
theorem decideFeed_itk (s : State) :
    (decideFeed s).itk = { s.itk with permit := (decideFeed s).itk.permit, cause := (decideFeed s).itk.cause } := by
  have post {u t : State} (h : LinkOnly u t) : t.itk = u.itk := h.1.1
  unfold decideFeed
  split
  rename_i permit cause _
  extract_lets s'
  have hd : LinkOnly s' (postDiverter s') := by
    unfold postDiverter; split
    · exact linkOnly_postCommand _ _
    · exact .refl _
  split
  · split
    · rfl
    · rw [post (linkOnly_postEvent _ _ _)]; rfl
  · split
    · rw [post hd]; rfl
    · rfl

/-- The selection test moves no lot and no transit entry. -/
theorem selectKiln_itk (s : State) :
    (selectKiln s).itk = { s.itk with permit := (selectKiln s).itk.permit, cause := (selectKiln s).itk.cause } ∧
    (selectKiln s).mgu = { s.mgu with events := (selectKiln s).mgu.events } ∧ (selectKiln s).clock = s.clock := by
  unfold selectKiln
  split
  · split
    · exact ⟨rfl, rfl, rfl⟩
    · rename_i k _
      unfold chooseKiln
      extract_lets s1 s2 s3
      have hm := posted_decideFeed (modifyKiln k (fun kl => { kl with state := .filling }) s2)
      have hi := decideFeed_itk (modifyKiln k (fun kl => { kl with state := .filling }) s2)
      have hd : (postDiverter (onKfr (fun b => { b with diverter := some k }) s3)).itk = s3.itk := by
        unfold postDiverter; split
        · exact (linkOnly_postCommand _ _).1.1
        · rfl
      have hp := posted_postDiverter (onKfr (fun b => { b with diverter := some k }) s3)
      refine ⟨?_, ?_, ?_⟩
      · rw [hd]; exact hi
      · have e : s3.mgu = { s.mgu with events := s3.mgu.events } := hm.mgu
        rw [hp.mgu]
        show ({ s3.mgu with events := _ } : Mgu) = _
        rw [e]
      · rw [hp.clock]; exact hm.clock
  · exact ⟨rfl, rfl, rfl⟩

/-- The hooking start test leaves the weigh lot and the residue, sets no pending boundary, and lists at most the entry of the lot
that starts. -/
theorem hookingTest_itk (s : State) :
    (hookingTest s).itk.weighLot = s.itk.weighLot ∧ (hookingTest s).itk.accumulator = s.itk.accumulator ∧
    (s.itk.boundary = false → (hookingTest s).itk.boundary = false) ∧
    ((started s = false ∨ s.itk.hookLot ≠ none ∨ s.itk.queue = [] ∨ 4 ≤ s.itk.transit.length) →
      (hookingTest s).itk.transit = s.itk.transit) ∧
    ∀ i q, started s = true → s.itk.hookLot = none → s.itk.queue = i :: q → s.itk.transit.length < 4 →
      (hookingTest s).itk.transit = s.itk.transit ++ [⟨some i, transitDue s⟩] ∧ (hookingTest s).itk.hookLot = some i ∧
      (hookingTest s).itk.queue = q := by
  unfold hookingTest
  split
  · rename_i hc
    rw [Bool.and_eq_true, Option.isNone_iff_eq_none] at hc
    split
    · rename_i hq
      exact ⟨rfl, rfl, id, fun _ => rfl, fun i q _ _ h => by rw [hq] at h; cases h⟩
    · rename_i slot rest hq
      split
      · rename_i hl
        unfold startHooking
        extract_lets s1
        rw [(selectKiln_itk _).1]
        refine ⟨rfl, rfl, fun _ => rfl, ?_, ?_⟩
        · rintro (h | h | h | h)
          · rw [h] at hc; cases hc.1
          · exact absurd hc.2 h
          · rw [hq] at h; cases h
          · omega
        · intro i q _ _ h _
          rw [hq] at h; cases h
          exact ⟨rfl, rfl, rfl⟩
      · rename_i hl
        have ht (b : Bool) (u : State) : (transitFull b u).itk = u.itk := by
          unfold transitFull; split
          · rfl
          · exact (linkOnly_postEvent _ _ _).1.1
        rw [ht]
        exact ⟨rfl, rfl, id, fun _ => rfl, fun _ _ _ _ _ h => absurd h hl⟩
  · rename_i hc
    refine ⟨rfl, rfl, id, fun _ => rfl, fun i q h1 h2 _ _ => absurd ?_ hc⟩
    rw [h1, h2]; rfl

end Sys2Proof.Machine
end

