-- ==== Sys2Proof/Laws/Order.lean ====
section
/-! SUPPORT. What the open choices can do: an order is a permutation of the list, and the schedule loses its head. -/

namespace Sys2Proof.Machine

theorem takeChoice_eq (s : State) : takeChoice s = (s.sched.headD 0, { s with sched := s.sched.tail }) := by
  cases s with
  | mk pending sched freeCount clock channels mgu itk kfr kilns rct uar cfl pru tku rlu actuators =>
    cases sched <;> rfl

/-- Each order that a choice names holds the same elements. -/
theorem arrange_perm {α : Type} (m n : Nat) (xs : List α) : (arrange m n xs).Perm xs := by
  induction m generalizing n xs with
  | zero => exact .refl _
  | succ m ih =>
    unfold arrange
    split
    · exact .refl _
    · rename_i x hx
      obtain ⟨h, e⟩ := List.getElem?_eq_some_iff.mp hx
      exact (List.Perm.cons x (ih _ _)).trans (e ▸ List.getElem_cons_eraseIdx_perm h)

/-- The choice 0 keeps the order. -/
theorem arrange_zero {α : Type} (m : Nat) (xs : List α) : arrange m 0 xs = xs := by
  induction m generalizing xs with
  | zero => rfl
  | succ m ih =>
    unfold arrange
    cases xs with
    | nil => rfl
    | cons x xs => simp [ih]

/-- A list in the order that the schedule chooses, and the schedule without its head. -/
theorem inChosenOrder_spec {α : Type} (xs : List α) (s : State) :
    ∃ order : List α, order.Perm xs ∧ inChosenOrder xs s = (order, { s with sched := s.sched.tail }) :=
  ⟨_, arrange_perm xs.length (s.sched.headD 0) xs, by unfold inChosenOrder; rw [takeChoice_eq]⟩

end Sys2Proof.Machine
end

