-- ==== Sys2Proof/Laws/PerInstr.lean ====
section
/-! SUPPORT. The family Fits: what the ring carries for a well-formed command is at most 246 bytes, a header of four, a
payload of 240 and a CRC of two (11.1). -/

namespace Sys2Proof.Laws

open Machine

namespace Fits

/-- A well-formed command's frame, if it carries one, takes at most 246 bytes on the ring. -/
def Statement (i : Instr) : Prop := i.wellFormed = true → ∀ f, i.frame? = some f → (wire f).length ≤ 246

end Fits

theorem length_beBytes (n v : Nat) : (beBytes n v).length = n := by
  induction n with
  | zero => rfl
  | succ n ih => simp [beBytes, ih]

theorem length_wire (f : Frame) : (wire f).length = f.payload.length + 6 := by
  simp [wire, frameBody, length_beBytes]

theorem fits_statement (i : Instr) : Fits.Statement i := by
  intro h f hf
  have : f.fits = true := by
    unfold Instr.wellFormed at h
    rw [hf] at h
    exact (Bool.and_eq_true _ _ ▸ h).2
  have hl : f.payload.length ≤ 240 := of_decide_eq_true this
  rw [length_wire]; omega

/-! ### One lemma for each constructor -/

theorem Fits.powerOn (straps : BitVec 7) : Fits.Statement (.powerOn straps) := fits_statement _
theorem Fits.badFrame (wire : List Byte) : Fits.Statement (.badFrame wire) := fits_statement _
theorem Fits.ownFrameRemoved (f : Frame) : Fits.Statement (.ownFrameRemoved f) := fits_statement _
theorem Fits.sampleFrame (f : Frame) : Fits.Statement (.sampleFrame f) := fits_statement _
theorem Fits.hook (f : Frame) : Fits.Statement (.hook f) := fits_statement _
theorem Fits.hookShort (f : Frame) : Fits.Statement (.hookShort f) := fits_statement _
theorem Fits.chargeStart (f : Frame) : Fits.Statement (.chargeStart f) := fits_statement _
theorem Fits.pressCycle (f : Frame) : Fits.Statement (.pressCycle f) := fits_statement _
theorem Fits.baleTied (f : Frame) : Fits.Statement (.baleTied f) := fits_statement _
theorem Fits.unloadDone (f : Frame) : Fits.Statement (.unloadDone f) := fits_statement _
theorem Fits.commandFrame (f : Frame) : Fits.Statement (.commandFrame f) := fits_statement _
theorem Fits.restart (f : Frame) : Fits.Statement (.restart f) := fits_statement _
theorem Fits.passThroughFrame (f : Frame) : Fits.Statement (.passThroughFrame f) := fits_statement _
theorem Fits.frameBoundary : Fits.Statement .frameBoundary := fits_statement _
theorem Fits.channelStaleDeadline (c : Fin 64) : Fits.Statement (.channelStaleDeadline c) := fits_statement _
theorem Fits.transitEntryDue : Fits.Statement .transitEntryDue := fits_statement _
theorem Fits.evaluationExpiry (k : Fin 4) : Fits.Statement (.evaluationExpiry k) := fits_statement _
theorem Fits.overdryDeadline (k : Fin 4) : Fits.Statement (.overdryDeadline k) := fits_statement _
theorem Fits.unloadSettleDeadline : Fits.Statement .unloadSettleDeadline := fits_statement _
theorem Fits.unloadOverrunDeadline : Fits.Statement .unloadOverrunDeadline := fits_statement _
theorem Fits.layerRestDue (layer : Nat) : Fits.Statement (.layerRestDue layer) := fits_statement _
theorem Fits.pressSettleDeadline : Fits.Statement .pressSettleDeadline := fits_statement _
theorem Fits.ringIdleTimeout : Fits.Statement .ringIdleTimeout := fits_statement _
theorem Fits.timeOfDaySecond : Fits.Statement .timeOfDaySecond := fits_statement _
theorem Fits.requestUndefined (f : Frame) : Fits.Statement (.requestUndefined f) := fits_statement _
theorem Fits.tableReadChannel (f : Frame) : Fits.Statement (.tableReadChannel f) := fits_statement _
theorem Fits.tableReadActuator (f : Frame) : Fits.Statement (.tableReadActuator f) := fits_statement _
theorem Fits.tableReadNodeClass (f : Frame) : Fits.Statement (.tableReadNodeClass f) := fits_statement _
theorem Fits.tableReadKilnSetup (f : Frame) : Fits.Statement (.tableReadKilnSetup f) := fits_statement _
theorem Fits.tableReadConfig (f : Frame) : Fits.Statement (.tableReadConfig f) := fits_statement _
theorem Fits.tableReadRecipe (f : Frame) : Fits.Statement (.tableReadRecipe f) := fits_statement _
theorem Fits.tableReadBaleLog (f : Frame) : Fits.Statement (.tableReadBaleLog f) := fits_statement _
theorem Fits.tableWriteChannel (f : Frame) : Fits.Statement (.tableWriteChannel f) := fits_statement _
theorem Fits.tableWriteActuator (f : Frame) : Fits.Statement (.tableWriteActuator f) := fits_statement _
theorem Fits.tableWriteNodeClass (f : Frame) : Fits.Statement (.tableWriteNodeClass f) := fits_statement _
theorem Fits.tableWriteKilnSetup (f : Frame) : Fits.Statement (.tableWriteKilnSetup f) := fits_statement _
theorem Fits.tableWriteConfig (f : Frame) : Fits.Statement (.tableWriteConfig f) := fits_statement _
theorem Fits.tableWriteRecipe (f : Frame) : Fits.Statement (.tableWriteRecipe f) := fits_statement _
theorem Fits.tableWriteBaleLog (f : Frame) : Fits.Statement (.tableWriteBaleLog f) := fits_statement _
theorem Fits.statusReadDevice (f : Frame) : Fits.Statement (.statusReadDevice f) := fits_statement _
theorem Fits.statusReadChannels (f : Frame) : Fits.Statement (.statusReadChannels f) := fits_statement _
theorem Fits.statusReadEvents (f : Frame) : Fits.Statement (.statusReadEvents f) := fits_statement _
theorem Fits.statusReadIntake (f : Frame) : Fits.Statement (.statusReadIntake f) := fits_statement _
theorem Fits.statusReadLot (f : Frame) : Fits.Statement (.statusReadLot f) := fits_statement _
theorem Fits.statusReadFill (f : Frame) : Fits.Statement (.statusReadFill f) := fits_statement _
theorem Fits.statusReadKilns (f : Frame) : Fits.Statement (.statusReadKilns f) := fits_statement _
theorem Fits.statusReadFloor (f : Frame) : Fits.Statement (.statusReadFloor f) := fits_statement _
theorem Fits.statusReadPress (f : Frame) : Fits.Statement (.statusReadPress f) := fits_statement _
theorem Fits.statusReadBale (f : Frame) : Fits.Statement (.statusReadBale f) := fits_statement _
theorem Fits.statusReadTickets (f : Frame) : Fits.Statement (.statusReadTickets f) := fits_statement _
theorem Fits.statusReadTicket (f : Frame) : Fits.Statement (.statusReadTicket f) := fits_statement _
theorem Fits.statusReadLink (f : Frame) : Fits.Statement (.statusReadLink f) := fits_statement _
theorem Fits.recipeBegin (f : Frame) : Fits.Statement (.recipeBegin f) := fits_statement _
theorem Fits.recipeStage (f : Frame) : Fits.Statement (.recipeStage f) := fits_statement _
theorem Fits.recipeEnd (f : Frame) : Fits.Statement (.recipeEnd f) := fits_statement _
theorem Fits.timeSet (f : Frame) : Fits.Statement (.timeSet f) := fits_statement _
theorem Fits.eventEnable (f : Frame) : Fits.Statement (.eventEnable f) := fits_statement _
theorem Fits.eventClear (f : Frame) : Fits.Statement (.eventClear f) := fits_statement _
theorem Fits.start (f : Frame) : Fits.Statement (.start f) := fits_statement _
theorem Fits.lotOpen (f : Frame) : Fits.Statement (.lotOpen f) := fits_statement _
theorem Fits.lotCancel (f : Frame) : Fits.Statement (.lotCancel f) := fits_statement _
theorem Fits.lotEnd (f : Frame) : Fits.Statement (.lotEnd f) := fits_statement _
theorem Fits.kilnStart (f : Frame) : Fits.Statement (.kilnStart f) := fits_statement _
theorem Fits.kilnHold (f : Frame) : Fits.Statement (.kilnHold f) := fits_statement _
theorem Fits.kilnResume (f : Frame) : Fits.Statement (.kilnResume f) := fits_statement _
theorem Fits.kilnForceEnd (f : Frame) : Fits.Statement (.kilnForceEnd f) := fits_statement _
theorem Fits.kilnFillClose (f : Frame) : Fits.Statement (.kilnFillClose f) := fits_statement _
theorem Fits.kilnClear (f : Frame) : Fits.Statement (.kilnClear f) := fits_statement _
theorem Fits.kilnRecipe (f : Frame) : Fits.Statement (.kilnRecipe f) := fits_statement _
theorem Fits.floorClear (f : Frame) : Fits.Statement (.floorClear f) := fits_statement _
theorem Fits.pressAbort (f : Frame) : Fits.Statement (.pressAbort f) := fits_statement _
theorem Fits.ticketCreditAdd (f : Frame) : Fits.Statement (.ticketCreditAdd f) := fits_statement _
theorem Fits.ticketCreditSet (f : Frame) : Fits.Statement (.ticketCreditSet f) := fits_statement _
theorem Fits.ticketStop (f : Frame) : Fits.Statement (.ticketStop f) := fits_statement _
theorem Fits.ticketRun (f : Frame) : Fits.Statement (.ticketRun f) := fits_statement _
theorem Fits.ticketRewind (f : Frame) : Fits.Statement (.ticketRewind f) := fits_statement _
theorem Fits.ticketRelease (f : Frame) : Fits.Statement (.ticketRelease f) := fits_statement _
theorem Fits.malformedMarkFrame (f : Frame) : Fits.Statement (.malformedMarkFrame f) := fits_statement _

end Sys2Proof.Laws
end

