-- ==== Sys2Proof/Laws/Requests.lean ====
section
/-! SUPPORT. A request that the device takes: from the row to the answer of its owner, in one step each. -/

namespace Sys2Proof.Machine

/-- The class of a source is read from the node-class table alone. -/
theorem classOf_asked (s : State) (n : Nat) : classOf (asked s) n = classOf s n := rfl

theorem started_asked (s : State) : started (asked s) = started s := rfl

theorem not_fromOwn {s : State} {f : Frame} (h : Asked s f) : fromOwn s f = false := by
  simp [fromOwn, h.2.2.1]

theorem toOwn_of {s : State} {f : Frame} (h : Asked s f) : toOwn s f = true := by
  simp [toOwn, h.1, h.2.1]

/-- A request taken with at least its tag and code is served in the state `asked s`. -/
theorem takeRequest_served {s : State} {f : Frame} (h : Asked s f) (hl : 3 ≤ f.payload.length) (r : Request) :
    takeRequest true f r s = answered f (answer r f.src.toNat (asked s)).2 (answer r f.src.toNat (asked s)).1 := by
  have h1 : fromOwn (taken s) f = false := not_fromOwn (s := s) h
  have h2 : toOwn (taken s) f = true := toOwn_of (s := s) h
  have h3 : discarded f = false := by
    simp only [discarded, decide_eq_false_iff_not, not_or, not_lt]
    exact ⟨by have := h.2.2.2.1; omega, h.2.2.2.2, hl⟩
  have e : takeRequest true f r s = startPortB (accept f (handleRequest f r) s) := rfl
  have e2 : accept f (handleRequest f r) s = handleRequest f r (taken s) := by
    show (if fromOwn (taken s) f then _ else _) = _
    rw [h1]; rfl
  have e3 : handleRequest f r (taken s) = serve f r (asked s) := by
    unfold handleRequest; rw [h2]; rfl
  rw [e, e2, e3]
  unfold serve
  rw [h3]
  rfl

/-- A request shorter than its tag and code is discarded: no reply, no effect. -/
theorem takeRequest_short {s : State} {f : Frame} (h : Asked s f) (hl : f.payload.length < 3) (r : Request) :
    takeRequest true f r s = startPortB (asked s) := by
  have h1 : fromOwn (taken s) f = false := not_fromOwn (s := s) h
  have h2 : toOwn (taken s) f = true := toOwn_of (s := s) h
  have h3 : discarded f = true := by simp [discarded, hl]
  have e : takeRequest true f r s = startPortB (accept f (handleRequest f r) s) := rfl
  have e2 : accept f (handleRequest f r) s = handleRequest f r (taken s) := by
    show (if fromOwn (taken s) f then _ else _) = _
    rw [h1]; rfl
  have e3 : handleRequest f r (taken s) = serve f r (asked s) := by
    unfold handleRequest; rw [h2]; rfl
  rw [e, e2, e3]
  unfold serve
  rw [h3]
  rfl

/-- A request that passes the checks of R179 is answered by its owner. -/
theorem answer_owner {r : Request} {n : Nat} {s : State} (h1 : r.form = true) (h2 : r.may s (classOf s n) = true)
    (h3 : r.job = true → started s = true) : answer r n s = r.owner s := by
  unfold answer
  rw [h1, h2]
  cases hj : r.job with
  | false => simp
  | true => simp [h3 hj]

/-- The answer of the owner to a request that passes the checks. -/
theorem takeRequest_owner {s : State} {f : Frame} (h : Asked s f) (hl : 3 ≤ f.payload.length) (r : Request)
    (h1 : r.form = true) (h2 : r.may (asked s) (classOf s f.src.toNat) = true) (h3 : r.job = true → started s = true) :
    takeRequest true f r s = answered f (r.owner (asked s)).2 (r.owner (asked s)).1 := by
  rw [takeRequest_served h hl, answer_owner h1 h2 h3]

/-- A request of a code carries its tag and code. -/
theorem length_of_asks {f : Frame} {code : Nat} (h : asks f code = true) : 3 ≤ f.payload.length := by
  simp only [asks, Bool.and_eq_true, decide_eq_true_eq] at h
  exact h.2.1

theorem length_of_asksOf {f : Frame} {code sub : Nat} (h : asksOf f code sub = true) : 3 ≤ f.payload.length := by
  simp only [asksOf, Bool.and_eq_true] at h
  exact length_of_asks h.1

/-! ### By the class that a request needs: what the row answers once its owner's answer is known -/

theorem readRequest_answered {s : State} {f : Frame} (h : Asked s f) (hl : 3 ≤ f.payload.length) {form : Bool}
    (hf : form = true) (owner : State → State × Answer) :
    takeRequest true f (readRequest form owner) s = answered f (owner (asked s)).2 (owner (asked s)).1 :=
  takeRequest_owner h hl _ hf rfl (fun h => by cases h)

theorem setupRequest_answered {s : State} {f : Frame} (h : OperatorAsks s f) (hl : 3 ≤ f.payload.length) {form : Bool}
    (hf : form = true) (owner : State → State × Answer) :
    takeRequest true f (setupRequest form owner) s = answered f (owner (asked s)).2 (owner (asked s)).1 :=
  takeRequest_owner h.1 hl _ hf h.2 (fun h => by cases h)

theorem jobRequest_answered {s : State} {f : Frame} (h : OperatorWorks s f) (hl : 3 ≤ f.payload.length) {form : Bool}
    (hf : form = true) (owner : State → State × Answer) :
    takeRequest true f (jobRequest form owner) s = answered f (owner (asked s)).2 (owner (asked s)).1 :=
  takeRequest_owner h.1.1 hl _ hf h.1.2 (fun _ => h.2)

theorem weighmasterRequest_answered {s : State} {f : Frame} (h : WeighmasterWorks s f) (hl : 3 ≤ f.payload.length) {form : Bool}
    (hf : form = true) (owner : State → State × Answer) :
    takeRequest true f (weighmasterRequest form owner) s = answered f (owner (asked s)).2 (owner (asked s)).1 :=
  takeRequest_owner h.1 hl _ hf h.2.1 (fun _ => h.2.2)

theorem setup_exec {s : State} {f : Frame} (h : OperatorAsks s f) {code n : Nat} (hc : Carries f code n)
    (owner : State → State × Answer) {a : Answer} {u : State} (ho : owner (asked s) = (u, a)) :
    (.next (takeRequest (asks f code) f (setupRequest (argsLength f n) owner) s) : Host.Outcome State Fault Refusal) =
      .next (answered f a u) := by
  rw [hc.1, setupRequest_answered h (length_of_asks hc.1) hc.2, ho]

theorem job_exec {s : State} {f : Frame} (h : OperatorWorks s f) {code n : Nat} (hc : Carries f code n)
    (owner : State → State × Answer) {a : Answer} {u : State} (ho : owner (asked s) = (u, a)) :
    (.next (takeRequest (asks f code) f (jobRequest (argsLength f n) owner) s) : Host.Outcome State Fault Refusal) =
      .next (answered f a u) := by
  rw [hc.1, jobRequest_answered h (length_of_asks hc.1) hc.2, ho]

theorem weighmaster_exec {s : State} {f : Frame} (h : WeighmasterWorks s f) {code n : Nat} (hc : Carries f code n)
    (owner : State → State × Answer) {a : Answer} {u : State} (ho : owner (asked s) = (u, a)) :
    (.next (takeRequest (asks f code) f (weighmasterRequest (argsLength f n) owner) s) : Host.Outcome State Fault Refusal) =
      .next (answered f a u) := by
  rw [hc.1, weighmasterRequest_answered h (length_of_asks hc.1) hc.2, ho]

end Sys2Proof.Machine
end

