-- ==== Sys2Proof/Laws/Shares.lean ====
section
/-! SUPPORT. The lot shares of a bale (R114): the parts of each lot gathered into one share, in the order of first appearance. -/

namespace Sys2Proof.Machine

/-- The lot that a share names. -/
def lotKey (sh : Share) : Option (Fin 32) × Nat := (sh.slot, sh.lotNumber)

/-- The grams of the parts of one lot. -/
def gramsFor (x : Option (Fin 32) × Nat) (parts : List (Share × Nat)) : Nat :=
  ((parts.filter (fun p => decide (lotKey p.1 = x))).map (·.2)).sum

/-- The part gathered into the shares so far, if it is a lot's. -/
def gather (acc : List Share) (p : Share × Nat) : List Share := if p.1.slot.isSome then addPart p.1 p.2 acc else acc

theorem gramsFor_snoc (x : Option (Fin 32) × Nat) (parts : List (Share × Nat)) (p : Share × Nat) :
    gramsFor x (parts ++ [p]) = gramsFor x parts + if lotKey p.1 = x then p.2 else 0 := by
  unfold gramsFor
  rw [List.filter_append, List.map_append, List.sum_append]
  by_cases h : lotKey p.1 = x <;> simp [h]

theorem lotKey_iff {x y : Share} : (x.slot = y.slot ∧ x.lotNumber = y.lotNumber) ↔ lotKey x = lotKey y := by
  unfold lotKey; rw [Prod.mk.injEq]

/-- Adding a part keeps the lots in their places, and joins a lot that is not among them behind the rest. -/
theorem addPart_keys (sh : Share) (n : Nat) (xs : List Share) :
    (addPart sh n xs).map lotKey = if lotKey sh ∈ xs.map lotKey then xs.map lotKey else xs.map lotKey ++ [lotKey sh] := by
  induction xs with
  | nil => rfl
  | cons x xs ih =>
    unfold addPart
    by_cases h : lotKey x = lotKey sh
    · rw [if_pos (lotKey_iff.mpr h), if_pos (by simp [h])]; rfl
    · rw [if_neg (fun k => h (lotKey_iff.mp k)), List.map_cons, ih]
      simp only [List.map_cons, List.mem_cons]
      by_cases k : lotKey sh ∈ xs.map lotKey
      · rw [if_pos k, if_pos (Or.inr k)]
      · rw [if_neg k, if_neg (by rintro (e | e); exact h e.symm; exact k e), List.cons_append]

/-- Adding a part adds its grams to its lot alone. -/
theorem addPart_grams (sh : Share) (n : Nat) (xs : List Share) (h : (xs.map lotKey).Nodup) :
    ∀ y ∈ addPart sh n xs, (∃ x ∈ xs, lotKey x = lotKey y ∧ y.grams = x.grams + if lotKey sh = lotKey y then n else 0) ∨
      (lotKey y = lotKey sh ∧ lotKey sh ∉ xs.map lotKey ∧ y.grams = n) := by
  induction xs with
  | nil =>
    intro y hy
    simp only [addPart, List.mem_singleton] at hy
    subst hy; exact .inr ⟨rfl, List.not_mem_nil, rfl⟩
  | cons x xs ih =>
    rw [List.map_cons, List.nodup_cons] at h
    intro y hy
    unfold addPart at hy
    by_cases k : lotKey x = lotKey sh
    · rw [if_pos (lotKey_iff.mpr k), List.mem_cons] at hy
      rcases hy with rfl | hy
      · exact .inl ⟨x, List.mem_cons_self .., rfl, (congrArg (x.grams + ·) (if_pos (c := lotKey sh = lotKey x) k.symm)).symm⟩
      · refine .inl ⟨y, List.mem_cons_of_mem _ hy, rfl, ?_⟩
        rw [if_neg, Nat.add_zero]
        intro e; exact h.1 (k.trans e ▸ List.mem_map_of_mem hy)
    · rw [if_neg (fun z => k (lotKey_iff.mp z)), List.mem_cons] at hy
      rcases hy with rfl | hy
      · exact .inl ⟨y, List.mem_cons_self .., rfl, by rw [if_neg (fun e => k e.symm), Nat.add_zero]⟩
      · rcases ih h.2 y hy with ⟨z, hz, a, b⟩ | ⟨a, b, c⟩
        · exact .inl ⟨z, List.mem_cons_of_mem _ hz, a, b⟩
        · refine .inr ⟨a, ?_, c⟩
          rw [List.map_cons, List.mem_cons]; rintro (e | e)
          · exact k e.symm
          · exact b e

/-- Adding a part adds its grams to the whole. -/
theorem addPart_sum (sh : Share) (n : Nat) (xs : List Share) :
    ((addPart sh n xs).map (·.grams)).sum = (xs.map (·.grams)).sum + n := by
  induction xs with
  | nil => simp [addPart]
  | cons x xs ih =>
    unfold addPart; split
    · simp only [List.map_cons, List.sum_cons]; omega
    · simp only [List.map_cons, List.sum_cons, ih]; omega

/-- What gathering gives: the lots of the parts in the order of first appearance, each with the sum of its parts. -/
theorem gathered (parts : List (Share × Nat)) :
    let acc := parts.foldl gather []
    let keys := parts.map (fun p => lotKey p.1)
    acc.Pairwise (fun x y => keys.idxOf (lotKey x) < keys.idxOf (lotKey y)) ∧
    (∀ x, x ∈ acc.map lotKey ↔ x ∈ keys ∧ x.1 ≠ none) ∧ (∀ y ∈ acc, y.grams = gramsFor (lotKey y) parts) ∧
    (acc.map (·.grams)).sum = ((parts.filter (fun p => p.1.slot.isSome)).map (·.2)).sum := by
  induction parts using List.reverseRecOn with
  | nil => exact ⟨.nil, by simp, by simp, rfl⟩
  | append_singleton parts p ih =>
    obtain ⟨ho, hm, hg, hs⟩ := ih
    intro acc keys
    have hkeys : keys = parts.map (fun q => lotKey q.1) ++ [lotKey p.1] := by simp [keys]
    have hacc : acc = gather (parts.foldl gather []) p := by simp [acc]
    generalize parts.foldl gather [] = old at *
    generalize hk : parts.map (fun q => lotKey q.1) = ks at *
    have hin : ∀ y ∈ old, lotKey y ∈ ks := fun y hy => ((hm _).mp (List.mem_map_of_mem hy)).1
    have hidx : ∀ y ∈ old, keys.idxOf (lotKey y) = ks.idxOf (lotKey y) := fun y hy => by
      rw [hkeys, List.idxOf_append_of_mem (hin y hy)]
    have hnd : (old.map lotKey).Nodup := by
      rw [List.Nodup, List.pairwise_map]
      exact ho.imp (fun {a b} h e => by rw [e] at h; omega)
    cases hp : p.1.slot with
    | none =>
      have ha : acc = old := by rw [hacc]; unfold gather; rw [hp]; rfl
      have hne : ∀ y ∈ old, lotKey p.1 ≠ lotKey y := by
        intro y hy e
        exact ((hm _).mp (List.mem_map_of_mem hy)).2 (by rw [← e]; exact hp)
      rw [ha]
      refine ⟨?_, ?_, ?_, ?_⟩
      · exact ho.imp_of_mem (fun {a b} h1 h2 h => by rw [hidx a h1, hidx b h2]; exact h)
      · intro x; rw [hm, hkeys, List.mem_append, List.mem_singleton]
        constructor
        · rintro ⟨a, b⟩; exact ⟨.inl a, b⟩
        · rintro ⟨a | a, b⟩
          · exact ⟨a, b⟩
          · subst a; exact absurd hp b
      · intro y hy; rw [gramsFor_snoc, if_neg (hne y hy), Nat.add_zero]; exact hg y hy
      · rw [hs, List.filter_append]; simp [hp]
    | some i =>
      have ha : acc = addPart p.1 p.2 old := by rw [hacc]; unfold gather; rw [hp]; rfl
      have hks := addPart_keys p.1 p.2 old
      rw [← ha] at hks
      have hne : (lotKey p.1).1 ≠ none := by show p.1.slot ≠ none; rw [hp]; simp
      have hmem : lotKey p.1 ∈ old.map lotKey ↔ lotKey p.1 ∈ ks := by rw [hm]; exact ⟨fun h => h.1, fun h => ⟨h, hne⟩⟩
      have hidk : ∀ x ∈ old.map lotKey, keys.idxOf x = ks.idxOf x := by
        intro x hx; obtain ⟨y, hy, rfl⟩ := List.mem_map.mp hx; exact hidx y hy
      have hpw : (old.map lotKey).Pairwise (fun x y => keys.idxOf x < keys.idxOf y) := by
        rw [List.pairwise_map]
        exact ho.imp_of_mem (fun {a b} h1 h2 h => by rw [hidx a h1, hidx b h2]; exact h)
      refine ⟨?_, ?_, ?_, ?_⟩
      · rw [← List.pairwise_map (f := lotKey) (R := fun x y => keys.idxOf x < keys.idxOf y), hks]
        split
        · exact hpw
        · rename_i hn
          rw [List.pairwise_append]
          refine ⟨hpw, List.pairwise_singleton _ _, ?_⟩
          intro x hx y hy
          rw [List.mem_singleton] at hy; subst hy
          have hxk := ((hm x).mp hx).1
          rw [hidk x hx, hkeys, List.idxOf_append_of_notMem (fun h => hn (hmem.mpr h))]
          have := List.idxOf_lt_length_iff.mpr hxk
          omega
      · intro x; rw [hks, hkeys, List.mem_append, List.mem_singleton]
        split
        · rename_i hin'
          rw [hm]
          constructor
          · rintro ⟨a, b⟩; exact ⟨.inl a, b⟩
          · rintro ⟨a | a, b⟩
            · exact ⟨a, b⟩
            · subst a; exact ⟨hmem.mp hin', b⟩
        · rw [List.mem_append, List.mem_singleton, hm]
          constructor
          · rintro (⟨a, b⟩ | a)
            · exact ⟨.inl a, b⟩
            · subst a; exact ⟨.inr rfl, hne⟩
          · rintro ⟨a | a, b⟩
            · exact .inl ⟨a, b⟩
            · exact .inr a
      · intro y hy; rw [ha] at hy; rw [gramsFor_snoc]
        rcases addPart_grams p.1 p.2 old hnd y hy with ⟨x, hx, a, b⟩ | ⟨a, b, c⟩
        · rw [b, hg x hx, a]
        · have : gramsFor (lotKey y) parts = 0 := by
            unfold gramsFor
            rw [List.filter_eq_nil_iff.mpr]
            · rfl
            · intro q hq; rw [decide_eq_true_eq]; intro e
              exact b (hmem.mpr (by rw [← a, ← e, ← hk]; exact List.mem_map_of_mem (f := fun q : Share × Nat => lotKey q.1) hq))
          rw [this, c, if_pos a.symm]; omega
      · rw [ha, addPart_sum, hs, List.filter_append]; simp [hp]

end Sys2Proof.Machine
end

