-- ==== Sys2Proof/Laws/State.lean ====
section
/-! SUPPORT. One lemma for each field of State and each update of it: the field read after the update. -/

namespace Sys2Proof.Machine

/-! ### `onMgu` -/

@[simp] theorem pending_onMgu (f : Mgu → Mgu) (s : State) : (onMgu f s).pending = s.pending := rfl
@[simp] theorem sched_onMgu (f : Mgu → Mgu) (s : State) : (onMgu f s).sched = s.sched := rfl
@[simp] theorem freeCount_onMgu (f : Mgu → Mgu) (s : State) : (onMgu f s).freeCount = s.freeCount := rfl
@[simp] theorem clock_onMgu (f : Mgu → Mgu) (s : State) : (onMgu f s).clock = s.clock := rfl
@[simp] theorem channels_onMgu (f : Mgu → Mgu) (s : State) : (onMgu f s).channels = s.channels := rfl
@[simp] theorem mgu_onMgu (f : Mgu → Mgu) (s : State) : (onMgu f s).mgu = f s.mgu := rfl
@[simp] theorem itk_onMgu (f : Mgu → Mgu) (s : State) : (onMgu f s).itk = s.itk := rfl
@[simp] theorem kfr_onMgu (f : Mgu → Mgu) (s : State) : (onMgu f s).kfr = s.kfr := rfl
@[simp] theorem kilns_onMgu (f : Mgu → Mgu) (s : State) : (onMgu f s).kilns = s.kilns := rfl
@[simp] theorem rct_onMgu (f : Mgu → Mgu) (s : State) : (onMgu f s).rct = s.rct := rfl
@[simp] theorem uar_onMgu (f : Mgu → Mgu) (s : State) : (onMgu f s).uar = s.uar := rfl
@[simp] theorem cfl_onMgu (f : Mgu → Mgu) (s : State) : (onMgu f s).cfl = s.cfl := rfl
@[simp] theorem pru_onMgu (f : Mgu → Mgu) (s : State) : (onMgu f s).pru = s.pru := rfl
@[simp] theorem tku_onMgu (f : Mgu → Mgu) (s : State) : (onMgu f s).tku = s.tku := rfl
@[simp] theorem rlu_onMgu (f : Mgu → Mgu) (s : State) : (onMgu f s).rlu = s.rlu := rfl
@[simp] theorem actuators_onMgu (f : Mgu → Mgu) (s : State) : (onMgu f s).actuators = s.actuators := rfl

/-! ### `onItk` -/

@[simp] theorem pending_onItk (f : Itk → Itk) (s : State) : (onItk f s).pending = s.pending := rfl
@[simp] theorem sched_onItk (f : Itk → Itk) (s : State) : (onItk f s).sched = s.sched := rfl
@[simp] theorem freeCount_onItk (f : Itk → Itk) (s : State) : (onItk f s).freeCount = s.freeCount := rfl
@[simp] theorem clock_onItk (f : Itk → Itk) (s : State) : (onItk f s).clock = s.clock := rfl
@[simp] theorem channels_onItk (f : Itk → Itk) (s : State) : (onItk f s).channels = s.channels := rfl
@[simp] theorem mgu_onItk (f : Itk → Itk) (s : State) : (onItk f s).mgu = s.mgu := rfl
@[simp] theorem itk_onItk (f : Itk → Itk) (s : State) : (onItk f s).itk = f s.itk := rfl
@[simp] theorem kfr_onItk (f : Itk → Itk) (s : State) : (onItk f s).kfr = s.kfr := rfl
@[simp] theorem kilns_onItk (f : Itk → Itk) (s : State) : (onItk f s).kilns = s.kilns := rfl
@[simp] theorem rct_onItk (f : Itk → Itk) (s : State) : (onItk f s).rct = s.rct := rfl
@[simp] theorem uar_onItk (f : Itk → Itk) (s : State) : (onItk f s).uar = s.uar := rfl
@[simp] theorem cfl_onItk (f : Itk → Itk) (s : State) : (onItk f s).cfl = s.cfl := rfl
@[simp] theorem pru_onItk (f : Itk → Itk) (s : State) : (onItk f s).pru = s.pru := rfl
@[simp] theorem tku_onItk (f : Itk → Itk) (s : State) : (onItk f s).tku = s.tku := rfl
@[simp] theorem rlu_onItk (f : Itk → Itk) (s : State) : (onItk f s).rlu = s.rlu := rfl
@[simp] theorem actuators_onItk (f : Itk → Itk) (s : State) : (onItk f s).actuators = s.actuators := rfl

/-! ### `onKfr` -/

@[simp] theorem pending_onKfr (f : Kfr → Kfr) (s : State) : (onKfr f s).pending = s.pending := rfl
@[simp] theorem sched_onKfr (f : Kfr → Kfr) (s : State) : (onKfr f s).sched = s.sched := rfl
@[simp] theorem freeCount_onKfr (f : Kfr → Kfr) (s : State) : (onKfr f s).freeCount = s.freeCount := rfl
@[simp] theorem clock_onKfr (f : Kfr → Kfr) (s : State) : (onKfr f s).clock = s.clock := rfl
@[simp] theorem channels_onKfr (f : Kfr → Kfr) (s : State) : (onKfr f s).channels = s.channels := rfl
@[simp] theorem mgu_onKfr (f : Kfr → Kfr) (s : State) : (onKfr f s).mgu = s.mgu := rfl
@[simp] theorem itk_onKfr (f : Kfr → Kfr) (s : State) : (onKfr f s).itk = s.itk := rfl
@[simp] theorem kfr_onKfr (f : Kfr → Kfr) (s : State) : (onKfr f s).kfr = f s.kfr := rfl
@[simp] theorem kilns_onKfr (f : Kfr → Kfr) (s : State) : (onKfr f s).kilns = s.kilns := rfl
@[simp] theorem rct_onKfr (f : Kfr → Kfr) (s : State) : (onKfr f s).rct = s.rct := rfl
@[simp] theorem uar_onKfr (f : Kfr → Kfr) (s : State) : (onKfr f s).uar = s.uar := rfl
@[simp] theorem cfl_onKfr (f : Kfr → Kfr) (s : State) : (onKfr f s).cfl = s.cfl := rfl
@[simp] theorem pru_onKfr (f : Kfr → Kfr) (s : State) : (onKfr f s).pru = s.pru := rfl
@[simp] theorem tku_onKfr (f : Kfr → Kfr) (s : State) : (onKfr f s).tku = s.tku := rfl
@[simp] theorem rlu_onKfr (f : Kfr → Kfr) (s : State) : (onKfr f s).rlu = s.rlu := rfl
@[simp] theorem actuators_onKfr (f : Kfr → Kfr) (s : State) : (onKfr f s).actuators = s.actuators := rfl

/-! ### `onRct` -/

@[simp] theorem pending_onRct (f : Rct → Rct) (s : State) : (onRct f s).pending = s.pending := rfl
@[simp] theorem sched_onRct (f : Rct → Rct) (s : State) : (onRct f s).sched = s.sched := rfl
@[simp] theorem freeCount_onRct (f : Rct → Rct) (s : State) : (onRct f s).freeCount = s.freeCount := rfl
@[simp] theorem clock_onRct (f : Rct → Rct) (s : State) : (onRct f s).clock = s.clock := rfl
@[simp] theorem channels_onRct (f : Rct → Rct) (s : State) : (onRct f s).channels = s.channels := rfl
@[simp] theorem mgu_onRct (f : Rct → Rct) (s : State) : (onRct f s).mgu = s.mgu := rfl
@[simp] theorem itk_onRct (f : Rct → Rct) (s : State) : (onRct f s).itk = s.itk := rfl
@[simp] theorem kfr_onRct (f : Rct → Rct) (s : State) : (onRct f s).kfr = s.kfr := rfl
@[simp] theorem kilns_onRct (f : Rct → Rct) (s : State) : (onRct f s).kilns = s.kilns := rfl
@[simp] theorem rct_onRct (f : Rct → Rct) (s : State) : (onRct f s).rct = f s.rct := rfl
@[simp] theorem uar_onRct (f : Rct → Rct) (s : State) : (onRct f s).uar = s.uar := rfl
@[simp] theorem cfl_onRct (f : Rct → Rct) (s : State) : (onRct f s).cfl = s.cfl := rfl
@[simp] theorem pru_onRct (f : Rct → Rct) (s : State) : (onRct f s).pru = s.pru := rfl
@[simp] theorem tku_onRct (f : Rct → Rct) (s : State) : (onRct f s).tku = s.tku := rfl
@[simp] theorem rlu_onRct (f : Rct → Rct) (s : State) : (onRct f s).rlu = s.rlu := rfl
@[simp] theorem actuators_onRct (f : Rct → Rct) (s : State) : (onRct f s).actuators = s.actuators := rfl

/-! ### `onUar` -/

@[simp] theorem pending_onUar (f : Uar → Uar) (s : State) : (onUar f s).pending = s.pending := rfl
@[simp] theorem sched_onUar (f : Uar → Uar) (s : State) : (onUar f s).sched = s.sched := rfl
@[simp] theorem freeCount_onUar (f : Uar → Uar) (s : State) : (onUar f s).freeCount = s.freeCount := rfl
@[simp] theorem clock_onUar (f : Uar → Uar) (s : State) : (onUar f s).clock = s.clock := rfl
@[simp] theorem channels_onUar (f : Uar → Uar) (s : State) : (onUar f s).channels = s.channels := rfl
@[simp] theorem mgu_onUar (f : Uar → Uar) (s : State) : (onUar f s).mgu = s.mgu := rfl
@[simp] theorem itk_onUar (f : Uar → Uar) (s : State) : (onUar f s).itk = s.itk := rfl
@[simp] theorem kfr_onUar (f : Uar → Uar) (s : State) : (onUar f s).kfr = s.kfr := rfl
@[simp] theorem kilns_onUar (f : Uar → Uar) (s : State) : (onUar f s).kilns = s.kilns := rfl
@[simp] theorem rct_onUar (f : Uar → Uar) (s : State) : (onUar f s).rct = s.rct := rfl
@[simp] theorem uar_onUar (f : Uar → Uar) (s : State) : (onUar f s).uar = f s.uar := rfl
@[simp] theorem cfl_onUar (f : Uar → Uar) (s : State) : (onUar f s).cfl = s.cfl := rfl
@[simp] theorem pru_onUar (f : Uar → Uar) (s : State) : (onUar f s).pru = s.pru := rfl
@[simp] theorem tku_onUar (f : Uar → Uar) (s : State) : (onUar f s).tku = s.tku := rfl
@[simp] theorem rlu_onUar (f : Uar → Uar) (s : State) : (onUar f s).rlu = s.rlu := rfl
@[simp] theorem actuators_onUar (f : Uar → Uar) (s : State) : (onUar f s).actuators = s.actuators := rfl

/-! ### `onCfl` -/

@[simp] theorem pending_onCfl (f : Cfl → Cfl) (s : State) : (onCfl f s).pending = s.pending := rfl
@[simp] theorem sched_onCfl (f : Cfl → Cfl) (s : State) : (onCfl f s).sched = s.sched := rfl
@[simp] theorem freeCount_onCfl (f : Cfl → Cfl) (s : State) : (onCfl f s).freeCount = s.freeCount := rfl
@[simp] theorem clock_onCfl (f : Cfl → Cfl) (s : State) : (onCfl f s).clock = s.clock := rfl
@[simp] theorem channels_onCfl (f : Cfl → Cfl) (s : State) : (onCfl f s).channels = s.channels := rfl
@[simp] theorem mgu_onCfl (f : Cfl → Cfl) (s : State) : (onCfl f s).mgu = s.mgu := rfl
@[simp] theorem itk_onCfl (f : Cfl → Cfl) (s : State) : (onCfl f s).itk = s.itk := rfl
@[simp] theorem kfr_onCfl (f : Cfl → Cfl) (s : State) : (onCfl f s).kfr = s.kfr := rfl
@[simp] theorem kilns_onCfl (f : Cfl → Cfl) (s : State) : (onCfl f s).kilns = s.kilns := rfl
@[simp] theorem rct_onCfl (f : Cfl → Cfl) (s : State) : (onCfl f s).rct = s.rct := rfl
@[simp] theorem uar_onCfl (f : Cfl → Cfl) (s : State) : (onCfl f s).uar = s.uar := rfl
@[simp] theorem cfl_onCfl (f : Cfl → Cfl) (s : State) : (onCfl f s).cfl = f s.cfl := rfl
@[simp] theorem pru_onCfl (f : Cfl → Cfl) (s : State) : (onCfl f s).pru = s.pru := rfl
@[simp] theorem tku_onCfl (f : Cfl → Cfl) (s : State) : (onCfl f s).tku = s.tku := rfl
@[simp] theorem rlu_onCfl (f : Cfl → Cfl) (s : State) : (onCfl f s).rlu = s.rlu := rfl
@[simp] theorem actuators_onCfl (f : Cfl → Cfl) (s : State) : (onCfl f s).actuators = s.actuators := rfl

/-! ### `onPru` -/

@[simp] theorem pending_onPru (f : Pru → Pru) (s : State) : (onPru f s).pending = s.pending := rfl
@[simp] theorem sched_onPru (f : Pru → Pru) (s : State) : (onPru f s).sched = s.sched := rfl
@[simp] theorem freeCount_onPru (f : Pru → Pru) (s : State) : (onPru f s).freeCount = s.freeCount := rfl
@[simp] theorem clock_onPru (f : Pru → Pru) (s : State) : (onPru f s).clock = s.clock := rfl
@[simp] theorem channels_onPru (f : Pru → Pru) (s : State) : (onPru f s).channels = s.channels := rfl
@[simp] theorem mgu_onPru (f : Pru → Pru) (s : State) : (onPru f s).mgu = s.mgu := rfl
@[simp] theorem itk_onPru (f : Pru → Pru) (s : State) : (onPru f s).itk = s.itk := rfl
@[simp] theorem kfr_onPru (f : Pru → Pru) (s : State) : (onPru f s).kfr = s.kfr := rfl
@[simp] theorem kilns_onPru (f : Pru → Pru) (s : State) : (onPru f s).kilns = s.kilns := rfl
@[simp] theorem rct_onPru (f : Pru → Pru) (s : State) : (onPru f s).rct = s.rct := rfl
@[simp] theorem uar_onPru (f : Pru → Pru) (s : State) : (onPru f s).uar = s.uar := rfl
@[simp] theorem cfl_onPru (f : Pru → Pru) (s : State) : (onPru f s).cfl = s.cfl := rfl
@[simp] theorem pru_onPru (f : Pru → Pru) (s : State) : (onPru f s).pru = f s.pru := rfl
@[simp] theorem tku_onPru (f : Pru → Pru) (s : State) : (onPru f s).tku = s.tku := rfl
@[simp] theorem rlu_onPru (f : Pru → Pru) (s : State) : (onPru f s).rlu = s.rlu := rfl
@[simp] theorem actuators_onPru (f : Pru → Pru) (s : State) : (onPru f s).actuators = s.actuators := rfl

/-! ### `onTku` -/

@[simp] theorem pending_onTku (f : Tku → Tku) (s : State) : (onTku f s).pending = s.pending := rfl
@[simp] theorem sched_onTku (f : Tku → Tku) (s : State) : (onTku f s).sched = s.sched := rfl
@[simp] theorem freeCount_onTku (f : Tku → Tku) (s : State) : (onTku f s).freeCount = s.freeCount := rfl
@[simp] theorem clock_onTku (f : Tku → Tku) (s : State) : (onTku f s).clock = s.clock := rfl
@[simp] theorem channels_onTku (f : Tku → Tku) (s : State) : (onTku f s).channels = s.channels := rfl
@[simp] theorem mgu_onTku (f : Tku → Tku) (s : State) : (onTku f s).mgu = s.mgu := rfl
@[simp] theorem itk_onTku (f : Tku → Tku) (s : State) : (onTku f s).itk = s.itk := rfl
@[simp] theorem kfr_onTku (f : Tku → Tku) (s : State) : (onTku f s).kfr = s.kfr := rfl
@[simp] theorem kilns_onTku (f : Tku → Tku) (s : State) : (onTku f s).kilns = s.kilns := rfl
@[simp] theorem rct_onTku (f : Tku → Tku) (s : State) : (onTku f s).rct = s.rct := rfl
@[simp] theorem uar_onTku (f : Tku → Tku) (s : State) : (onTku f s).uar = s.uar := rfl
@[simp] theorem cfl_onTku (f : Tku → Tku) (s : State) : (onTku f s).cfl = s.cfl := rfl
@[simp] theorem pru_onTku (f : Tku → Tku) (s : State) : (onTku f s).pru = s.pru := rfl
@[simp] theorem tku_onTku (f : Tku → Tku) (s : State) : (onTku f s).tku = f s.tku := rfl
@[simp] theorem rlu_onTku (f : Tku → Tku) (s : State) : (onTku f s).rlu = s.rlu := rfl
@[simp] theorem actuators_onTku (f : Tku → Tku) (s : State) : (onTku f s).actuators = s.actuators := rfl

/-! ### `onRlu` -/

@[simp] theorem pending_onRlu (f : Rlu → Rlu) (s : State) : (onRlu f s).pending = s.pending := rfl
@[simp] theorem sched_onRlu (f : Rlu → Rlu) (s : State) : (onRlu f s).sched = s.sched := rfl
@[simp] theorem freeCount_onRlu (f : Rlu → Rlu) (s : State) : (onRlu f s).freeCount = s.freeCount := rfl
@[simp] theorem clock_onRlu (f : Rlu → Rlu) (s : State) : (onRlu f s).clock = s.clock := rfl
@[simp] theorem channels_onRlu (f : Rlu → Rlu) (s : State) : (onRlu f s).channels = s.channels := rfl
@[simp] theorem mgu_onRlu (f : Rlu → Rlu) (s : State) : (onRlu f s).mgu = s.mgu := rfl
@[simp] theorem itk_onRlu (f : Rlu → Rlu) (s : State) : (onRlu f s).itk = s.itk := rfl
@[simp] theorem kfr_onRlu (f : Rlu → Rlu) (s : State) : (onRlu f s).kfr = s.kfr := rfl
@[simp] theorem kilns_onRlu (f : Rlu → Rlu) (s : State) : (onRlu f s).kilns = s.kilns := rfl
@[simp] theorem rct_onRlu (f : Rlu → Rlu) (s : State) : (onRlu f s).rct = s.rct := rfl
@[simp] theorem uar_onRlu (f : Rlu → Rlu) (s : State) : (onRlu f s).uar = s.uar := rfl
@[simp] theorem cfl_onRlu (f : Rlu → Rlu) (s : State) : (onRlu f s).cfl = s.cfl := rfl
@[simp] theorem pru_onRlu (f : Rlu → Rlu) (s : State) : (onRlu f s).pru = s.pru := rfl
@[simp] theorem tku_onRlu (f : Rlu → Rlu) (s : State) : (onRlu f s).tku = s.tku := rfl
@[simp] theorem rlu_onRlu (f : Rlu → Rlu) (s : State) : (onRlu f s).rlu = f s.rlu := rfl
@[simp] theorem actuators_onRlu (f : Rlu → Rlu) (s : State) : (onRlu f s).actuators = s.actuators := rfl

/-! ### `modifyKiln` -/

@[simp] theorem pending_modifyKiln (k : Fin 4) (f : Kiln → Kiln) (s : State) : (modifyKiln k f s).pending = s.pending := rfl
@[simp] theorem sched_modifyKiln (k : Fin 4) (f : Kiln → Kiln) (s : State) : (modifyKiln k f s).sched = s.sched := rfl
@[simp] theorem freeCount_modifyKiln (k : Fin 4) (f : Kiln → Kiln) (s : State) : (modifyKiln k f s).freeCount = s.freeCount := rfl
@[simp] theorem clock_modifyKiln (k : Fin 4) (f : Kiln → Kiln) (s : State) : (modifyKiln k f s).clock = s.clock := rfl
@[simp] theorem channels_modifyKiln (k : Fin 4) (f : Kiln → Kiln) (s : State) : (modifyKiln k f s).channels = s.channels := rfl
@[simp] theorem mgu_modifyKiln (k : Fin 4) (f : Kiln → Kiln) (s : State) : (modifyKiln k f s).mgu = s.mgu := rfl
@[simp] theorem itk_modifyKiln (k : Fin 4) (f : Kiln → Kiln) (s : State) : (modifyKiln k f s).itk = s.itk := rfl
@[simp] theorem kfr_modifyKiln (k : Fin 4) (f : Kiln → Kiln) (s : State) : (modifyKiln k f s).kfr = s.kfr := rfl
@[simp] theorem kilns_modifyKiln (k : Fin 4) (f : Kiln → Kiln) (s : State) : (modifyKiln k f s).kilns = s.kilns.modify k f := rfl
@[simp] theorem rct_modifyKiln (k : Fin 4) (f : Kiln → Kiln) (s : State) : (modifyKiln k f s).rct = s.rct := rfl
@[simp] theorem uar_modifyKiln (k : Fin 4) (f : Kiln → Kiln) (s : State) : (modifyKiln k f s).uar = s.uar := rfl
@[simp] theorem cfl_modifyKiln (k : Fin 4) (f : Kiln → Kiln) (s : State) : (modifyKiln k f s).cfl = s.cfl := rfl
@[simp] theorem pru_modifyKiln (k : Fin 4) (f : Kiln → Kiln) (s : State) : (modifyKiln k f s).pru = s.pru := rfl
@[simp] theorem tku_modifyKiln (k : Fin 4) (f : Kiln → Kiln) (s : State) : (modifyKiln k f s).tku = s.tku := rfl
@[simp] theorem rlu_modifyKiln (k : Fin 4) (f : Kiln → Kiln) (s : State) : (modifyKiln k f s).rlu = s.rlu := rfl
@[simp] theorem actuators_modifyKiln (k : Fin 4) (f : Kiln → Kiln) (s : State) : (modifyKiln k f s).actuators = s.actuators := rfl

/-! ### `setChannels` -/

@[simp] theorem pending_setChannels (t : Tab Channel 64) (s : State) : (setChannels t s).pending = s.pending := rfl
@[simp] theorem sched_setChannels (t : Tab Channel 64) (s : State) : (setChannels t s).sched = s.sched := rfl
@[simp] theorem freeCount_setChannels (t : Tab Channel 64) (s : State) : (setChannels t s).freeCount = s.freeCount := rfl
@[simp] theorem clock_setChannels (t : Tab Channel 64) (s : State) : (setChannels t s).clock = s.clock := rfl
@[simp] theorem channels_setChannels (t : Tab Channel 64) (s : State) : (setChannels t s).channels = t := rfl
@[simp] theorem mgu_setChannels (t : Tab Channel 64) (s : State) : (setChannels t s).mgu = s.mgu := rfl
@[simp] theorem itk_setChannels (t : Tab Channel 64) (s : State) : (setChannels t s).itk = s.itk := rfl
@[simp] theorem kfr_setChannels (t : Tab Channel 64) (s : State) : (setChannels t s).kfr = s.kfr := rfl
@[simp] theorem kilns_setChannels (t : Tab Channel 64) (s : State) : (setChannels t s).kilns = s.kilns := rfl
@[simp] theorem rct_setChannels (t : Tab Channel 64) (s : State) : (setChannels t s).rct = s.rct := rfl
@[simp] theorem uar_setChannels (t : Tab Channel 64) (s : State) : (setChannels t s).uar = s.uar := rfl
@[simp] theorem cfl_setChannels (t : Tab Channel 64) (s : State) : (setChannels t s).cfl = s.cfl := rfl
@[simp] theorem pru_setChannels (t : Tab Channel 64) (s : State) : (setChannels t s).pru = s.pru := rfl
@[simp] theorem tku_setChannels (t : Tab Channel 64) (s : State) : (setChannels t s).tku = s.tku := rfl
@[simp] theorem rlu_setChannels (t : Tab Channel 64) (s : State) : (setChannels t s).rlu = s.rlu := rfl
@[simp] theorem actuators_setChannels (t : Tab Channel 64) (s : State) : (setChannels t s).actuators = s.actuators := rfl

/-! ### `setActuators` -/

@[simp] theorem pending_setActuators (t : Tab Actuator 24) (s : State) : (setActuators t s).pending = s.pending := rfl
@[simp] theorem sched_setActuators (t : Tab Actuator 24) (s : State) : (setActuators t s).sched = s.sched := rfl
@[simp] theorem freeCount_setActuators (t : Tab Actuator 24) (s : State) : (setActuators t s).freeCount = s.freeCount := rfl
@[simp] theorem clock_setActuators (t : Tab Actuator 24) (s : State) : (setActuators t s).clock = s.clock := rfl
@[simp] theorem channels_setActuators (t : Tab Actuator 24) (s : State) : (setActuators t s).channels = s.channels := rfl
@[simp] theorem mgu_setActuators (t : Tab Actuator 24) (s : State) : (setActuators t s).mgu = s.mgu := rfl
@[simp] theorem itk_setActuators (t : Tab Actuator 24) (s : State) : (setActuators t s).itk = s.itk := rfl
@[simp] theorem kfr_setActuators (t : Tab Actuator 24) (s : State) : (setActuators t s).kfr = s.kfr := rfl
@[simp] theorem kilns_setActuators (t : Tab Actuator 24) (s : State) : (setActuators t s).kilns = s.kilns := rfl
@[simp] theorem rct_setActuators (t : Tab Actuator 24) (s : State) : (setActuators t s).rct = s.rct := rfl
@[simp] theorem uar_setActuators (t : Tab Actuator 24) (s : State) : (setActuators t s).uar = s.uar := rfl
@[simp] theorem cfl_setActuators (t : Tab Actuator 24) (s : State) : (setActuators t s).cfl = s.cfl := rfl
@[simp] theorem pru_setActuators (t : Tab Actuator 24) (s : State) : (setActuators t s).pru = s.pru := rfl
@[simp] theorem tku_setActuators (t : Tab Actuator 24) (s : State) : (setActuators t s).tku = s.tku := rfl
@[simp] theorem rlu_setActuators (t : Tab Actuator 24) (s : State) : (setActuators t s).rlu = s.rlu := rfl
@[simp] theorem actuators_setActuators (t : Tab Actuator 24) (s : State) : (setActuators t s).actuators = t := rfl

/-! ### `useFreeValue` -/

@[simp] theorem pending_useFreeValue (s : State) : (useFreeValue s).pending = s.pending := rfl
@[simp] theorem sched_useFreeValue (s : State) : (useFreeValue s).sched = s.sched := rfl
@[simp] theorem freeCount_useFreeValue (s : State) : (useFreeValue s).freeCount = s.freeCount + 1 := rfl
@[simp] theorem clock_useFreeValue (s : State) : (useFreeValue s).clock = s.clock := rfl
@[simp] theorem channels_useFreeValue (s : State) : (useFreeValue s).channels = s.channels := rfl
@[simp] theorem mgu_useFreeValue (s : State) : (useFreeValue s).mgu = s.mgu := rfl
@[simp] theorem itk_useFreeValue (s : State) : (useFreeValue s).itk = s.itk := rfl
@[simp] theorem kfr_useFreeValue (s : State) : (useFreeValue s).kfr = s.kfr := rfl
@[simp] theorem kilns_useFreeValue (s : State) : (useFreeValue s).kilns = s.kilns := rfl
@[simp] theorem rct_useFreeValue (s : State) : (useFreeValue s).rct = s.rct := rfl
@[simp] theorem uar_useFreeValue (s : State) : (useFreeValue s).uar = s.uar := rfl
@[simp] theorem cfl_useFreeValue (s : State) : (useFreeValue s).cfl = s.cfl := rfl
@[simp] theorem pru_useFreeValue (s : State) : (useFreeValue s).pru = s.pru := rfl
@[simp] theorem tku_useFreeValue (s : State) : (useFreeValue s).tku = s.tku := rfl
@[simp] theorem rlu_useFreeValue (s : State) : (useFreeValue s).rlu = s.rlu := rfl
@[simp] theorem actuators_useFreeValue (s : State) : (useFreeValue s).actuators = s.actuators := rfl

end Sys2Proof.Machine
end

