-- ==== Sys2Proof/Laws/Tables.lean ====
section
/-! SUPPORT. What a TABLE-WRITE carries, the table it leaves, and the state notices of channels that become UNSEEN. -/

namespace Sys2Proof.Machine

/-! ### The entries that a write carries (R182) -/

theorem entryChunks_length (size : Nat) : ∀ (n : Nat) (bs : List Byte), (entryChunks size n bs).length = n
  | 0,     _  => rfl
  | n + 1, bs => by unfold entryChunks; rw [List.length_cons, entryChunks_length size n]

theorem entryChunks_get (size : Nat) : ∀ (n : Nat) (bs : List Byte) (j : Nat), j < n →
    (entryChunks size n bs)[j]? = some ((bs.drop (size * j)).take size)
  | 0,     _,  _,     h => absurd h (Nat.not_lt_zero _)
  | n + 1, bs, 0,     _ => rfl
  | n + 1, bs, j + 1, h => by
    unfold entryChunks
    rw [List.getElem?_cons_succ, entryChunks_get size n _ j (by omega), List.drop_drop, Nat.mul_succ, Nat.add_comm]

/-- The entry that a write carries for an index of its window. -/
theorem writtenEntries_get (f : Frame) (size : Nat) {i : Nat} (h : InWindow f i) :
    (writtenEntries f size)[i - arg f 1 1]? = some (entryFor f size i) := by
  unfold writtenEntries entryFor
  rw [entryChunks_get size _ _ _ (by have := h.1; have := h.2; omega), List.drop_drop]

theorem mem_writtenEntries (f : Frame) (size : Nat) (bs : List Byte) :
    bs ∈ writtenEntries f size ↔ ∃ i, InWindow f i ∧ entryFor f size i = bs := by
  refine ⟨fun h => ?_, fun ⟨i, hi, e⟩ => e ▸ List.mem_of_getElem? (writtenEntries_get f size hi)⟩
  obtain ⟨j, hj⟩ := List.mem_iff_getElem?.1 h
  have hl : j < arg f 2 1 := by
    have := (List.getElem?_eq_some_iff.1 hj).1
    unfold writtenEntries at this
    rwa [entryChunks_length] at this
  have hw : InWindow f (arg f 1 1 + j) := ⟨Nat.le_add_right _ _, Nat.add_lt_add_left hl _⟩
  refine ⟨arg f 1 1 + j, hw, ?_⟩
  have e := writtenEntries_get f size hw
  rw [Nat.add_sub_cancel_left, hj] at e
  exact (Option.some.inj e).symm

/-! ### The table after a write -/

/-- A table with entries replaced from an index upward: those of the list in its window, the others as they were. -/
theorem Tab.get_putFrom {α : Type} {n : Nat} (xs : List α) : ∀ (t : Tab α n) (first : Nat) (i : Fin n),
    (t.putFrom first xs).get i = if first ≤ i.val then (xs[i.val - first]?).getD (t.get i) else t.get i := by
  induction xs with
  | nil => intro t first i; simp [Tab.putFrom]
  | cons x xs ih =>
    intro t first i
    unfold Tab.putFrom
    rw [ih]
    have hput : (t.put first x).get i = if i.val = first then x else t.get i := by
      unfold Tab.put Tab.get
      simp only [List.getElem_set]
      split
      · rename_i h; rw [if_pos h.symm]
      · rename_i h; rw [if_neg (fun e => h e.symm)]
    rw [hput]
    rcases Nat.lt_trichotomy i.val first with h | h | h
    · rw [if_neg (show ¬ first + 1 ≤ i.val by omega), if_neg (show ¬ i.val = first by omega),
        if_neg (show ¬ first ≤ i.val by omega)]
    · subst h; simp
    · rw [if_pos (show first + 1 ≤ i.val by omega), if_neg (show ¬ i.val = first by omega),
        if_pos (show first ≤ i.val by omega), show i.val - first = (i.val - (first + 1)) + 1 by omega,
        List.getElem?_cons_succ]

/-! ### State notices of channels that become UNSEEN (R4, R18) -/

/-- One state notice for each channel touched that was LIVE, STALE or FAULT, and no other. -/
theorem leavingNotices_spec (now : Time) (touched : Fin 64 → Bool) (s : State) :
    (∀ n, n ∈ leavingNotices now touched s ↔ ∃ i : Fin 64, touched i = true ∧ (s.channels.get i).state ≠ .unseen ∧
      n = ⟨i.val, false, 0, false, false, now, (s.channels.get i).state, .unseen⟩) ∧
    ((leavingNotices now touched s).map (·.channel)).Nodup := by
  constructor
  · intro n
    unfold leavingNotices
    rw [List.mem_filterMap]
    constructor
    · rintro ⟨i, -, h⟩
      split at h
      · rename_i hc
        rw [Bool.and_eq_true, decide_eq_true_eq] at hc
        exact ⟨i, hc.1, hc.2, (Option.some.inj h).symm⟩
      · cases h
    · rintro ⟨i, h1, h2, rfl⟩
      exact ⟨i, List.mem_finRange i, by rw [if_pos (by rw [h1, decide_eq_true h2]; rfl)]; rfl⟩
  · have gen (xs : List (Fin 64)) (hx : xs.Nodup) :
        ((xs.filterMap (fun i =>
          if touched i && decide ((s.channels.get i).state ≠ .unseen) then
            some (stateNotice i.val (s.channels.get i).state .unseen now) else none)).map (·.channel)).Nodup := by
      induction xs with
      | nil => exact List.nodup_nil
      | cons x xs ih =>
        rw [List.nodup_cons] at hx
        rw [List.filterMap_cons]
        split
        · exact ih hx.2
        · rename_i n hn
          split at hn
          · cases hn
            rw [List.map_cons, List.nodup_cons]
            refine ⟨fun hm => ?_, ih hx.2⟩
            obtain ⟨m, hm1, hm2⟩ := List.mem_map.1 hm
            obtain ⟨j, hj, hj2⟩ := List.mem_filterMap.1 hm1
            split at hj2
            · cases hj2
              exact hx.1 (Fin.ext hm2 ▸ hj)
            · cases hj2
          · cases hn
    exact gen _ (List.nodup_finRange 64)

end Sys2Proof.Machine
end

