-- ==== Sys2Proof/Tests/Slice0.lean ====
section
/-! SUPPORT. Tests: ill-formed commands, examples of the spec worked by hand, and a state that meets the hypotheses of each
statement. -/

namespace Sys2Proof.Tests

open Machine

set_option Elab.async false

/-! ### Well-formed commands -/

/-- A frame of no kind that the block reads. -/
def strange : Frame := ⟨1, 2, 0, []⟩

/-- A payload that no length field gives. -/
def tooLong : Frame := ⟨1, 2, 9, List.replicate 241 0⟩

def strangeRows : List (Frame → Instr) :=
  [.sampleFrame, .hook, .hookShort, .chargeStart, .pressCycle, .baleTied, .unloadDone, .commandFrame, .restart,
    .requestUndefined, .malformedMarkFrame]
    ++ requestRows.map (·.row)

theorem test_a_frame_of_another_row_is_ill_formed : ∀ row ∈ strangeRows, (row strange).wellFormed = false := by decide +kernel
theorem test_a_long_payload_is_ill_formed :
    ∀ row ∈ ([.ownFrameRemoved, .passThroughFrame] : List (Frame → Instr)), (row tooLong).wellFormed = false := by decide +kernel
theorem test_a_request_does_not_pass_through_as_a_mark : (Instr.passThroughFrame ⟨9, 2, 2, [1, 0]⟩).wellFormed = false := by
  decide +kernel
theorem test_good_bytes_are_no_bad_frame : (Instr.badFrame (wire strange)).wellFormed = false := by decide +kernel
theorem test_layer_numbers_run_from_1_to_255 :
    (Instr.layerRestDue 0).wellFormed = false ∧ (Instr.layerRestDue 256).wellFormed = false ∧
    (Instr.layerRestDue 1).wellFormed = true ∧ (Instr.layerRestDue 255).wellFormed = true := by decide +kernel
theorem test_no_word_spells_a_command : decodeTableWord 8 5 = none := rfl

/-! ### A station -/

def config : StationConfig := { StationConfig.powerOn with
  beltLoad := 0, beltSpeed := 1, hookNode := 50, pressNode := 51, unloadNode := 52, transitDelay := 600
  feedQuantum := 200000, pressScale := 10, pressCharge := 11, baleTarget := 100000, baleTolerance := 8000, baleTare := 1500
  settleLimit := 15, pressSlowBand := 10000, pressSlow := 400, feederSlow := 300, reference := 100
  floorCapacity := 1500000, emptyThreshold := 20000, unloadSettle := 20, unloadTimeout := 45, overdryLimit := 60
  evalInterval := 10, mismatch := 50, overtempMargin := 40, starvationGuard := 4, idleTimeout := 1000 }

def channel (node number : Nat) (kind : ChannelKind) (held : Int) : Channel := { Channel.powerOn with
  valid := true, sourceNode := node, sourceChannel := number, kind := kind, gain := 1024, low := -1000000, high := 1000000
  state := .live, held := held, lastArrival := some 0, staleDeadline := some 100000 }

def kilnSetup (k : Nat) : KilnSetup := { KilnSetup.powerOn with
  enabled := true, scale := 2 + k, plenum := 6 + k, exhaust := 20, burner := 4 + 2 * k, fan := 5 + 2 * k
  greenCapacity := 2600000, ceiling := 650, holdFan := 200, recipe := 1 }

/-- A started station: node 2 is a WEIGHMASTER, node 3 an OPERATOR, every other a VIEWER. -/
def station : State := { State.reset with
  mgu := { Mgu.powerOn with
    mode := .started, config := config, configValid := true
    nodeClasses := (Tab.fill 16 ⟨false, 0, 0, false⟩).putFrom 0 [⟨true, 2, 127, true⟩, ⟨true, 3, 127, false⟩] }
  channels := (Tab.fill 64 Channel.powerOn).putFrom 0
    [channel 40 0 .load 0, channel 40 1 .speed 400, channel 41 0 .mass 18450, channel 41 1 .mass 18450,
     channel 41 2 .mass 18450, channel 41 3 .mass 18450, channel 42 0 .temp 500, channel 42 1 .temp 500,
     channel 42 2 .temp 500, channel 42 3 .temp 500, channel 43 0 .mass 0, channel 43 1 .mass 0]
  kfr := { Kfr.powerOn with setups := (Tab.fill 4 KilnSetup.powerOn).putFrom 0 [kilnSetup 0, kilnSetup 1, kilnSetup 2, kilnSetup 3] }
  rct := ⟨(Tab.fill 8 ⟨0, []⟩).put 0 ⟨30, [⟨600, 800, 60, .moisture, 100, 10, 200⟩]⟩, some ⟨2, 1, 0, []⟩⟩
  actuators := (Tab.fill 24 Actuator.powerOn).putFrom 0
    [⟨true, 60, 0, .feeder, 0⟩, ⟨true, 60, 1, .diverter, 0⟩, ⟨true, 60, 2, .pressCharge, 0⟩, ⟨true, 60, 3, .unloadConveyor, 0⟩,
     ⟨true, 61, 0, .burner, 0⟩, ⟨true, 61, 10, .fan, 0⟩] }

/-- The state that a command leaves. -/
def after (s : State) (i : Instr) : State :=
  match exec i s with
  | .next t => t
  | _       => s

/-- A REQUEST from a node to the device. -/
def request (src : Byte) (code : Byte) (arguments : List Byte) : Frame := requestFrame 1 src [16, 32] code arguments

def mark (src code argument : Byte) : Frame := ⟨1, src, 2, [code, argument]⟩

def withKiln (k : Nat) (st : KilnState) (s : State) : State := { s with kilns := s.kilns.put k { Kiln.powerOn with state := st } }

def lotOf (number : Nat) (st : LotState) (s : State) : Lot := { openedLot (request 3 11 []) s with number := number, state := st }

def withLot (slot : Nat) (number : Nat) (st : LotState) (s : State) : State :=
  onItk (fun b => { b with lots := b.lots.put slot (some (lotOf number st s)) }) s

/-- The statuses of the replies that wait. -/
def statuses (s : State) : List Status := s.rlu.replies.map (·.answer.status)

/-! ### Examples worked by hand -/

theorem test_floor_division_of_a_negative_product : scaled (-512512) 1 0 = -501 := by decide +kernel
theorem test_split_of_ten : split 10 [1, 1, 1] = some [4, 3, 3] ∧ split 10 [0, 1, 1] = some [0, 5, 5] ∧ split 10 [0, 0, 0] = none := by
  decide +kernel
theorem test_crc_of_the_check_string : crc [0x31, 0x32, 0x33, 0x34, 0x35, 0x36, 0x37, 0x38, 0x39] = 0x29B1 := by decide +kernel
theorem test_estimate : moistureEstimate 1000 250 = (750, false) ∧ moistureEstimate 250 250 = (0, true) ∧
    moistureEstimate 0 9 = (0, false) := by decide +kernel
theorem test_settlement_of_one_share : dryFigure 12006 93 = 10889442 ∧ settlementGrams 10889442 100 = 12099 := by decide +kernel
theorem test_hold_of_a_drying_kiln :
    let t := after (withKiln 0 (.drying 1) station) (.kilnHold (request 3 15 [0]))
    (t.kilns.get 0).state = .held 1 ∧ (t.kilns.get 0).causes = ⟨false, false, true⟩ ∧
      t.rlu.commands.map (·.value) = [0] := by decide +kernel
theorem test_lot_open_starts_hooking :
    let t := after station (.lotOpen (request 3 11 [4, 17, 0, 7, 1, 3, 12, 0, 40]))
    t.itk.hookLot = some 0 ∧ t.itk.permit = .go ∧ (t.kilns.get 0).state = .filling ∧ t.itk.transit.length = 1 ∧
      (lotAt t 0).map (·.number) = some 1041 ∧ t.kfr.diverter = some 0 := by decide +kernel
theorem test_viewer_may_not_open_a_lot :
    (after station (.lotOpen (request 9 11 [4, 17, 0, 7, 1, 3, 12, 0, 40]))).itk = station.itk := by decide +kernel
theorem test_received_bytes_of_a_mark : receivedCommand station (wire (mark 50 1 0)) = .hook (mark 50 1 0) ∧
    receivedCommand station (wire (mark 1 1 0)) = .ownFrameRemoved (mark 1 1 0) ∧
    receivedCommand station (wire (mark 50 7 0)) = .malformedMarkFrame (mark 50 7 0) ∧
    receivedCommand station [1, 2, 3] = .badFrame [1, 2, 3] := by decide +kernel
theorem test_a_request_is_answered_on_an_idle_port :
    (after station (.kilnStart (request 3 14 [0]))).rlu.portB = some ⟨3, 1, 5, [16, 32, 2]⟩ := by decide +kernel
theorem test_second_of_the_time_of_day :
    (after { State.reset with clock := 1000 } .timeOfDaySecond).mgu.timeOfDay = 1 := by decide +kernel
theorem test_idle_queue_ticks : (idle State.reset).clock = 1 ∧
    (idle { State.reset with clock := 1000 }).pending = [.timeOfDaySecond] := by decide +kernel
theorem test_guard_of_a_held_feeder :
    (after station (.commandFrame ⟨60, 70, 3, [0, 3, 232]⟩)).rlu.portB = some ⟨60, 70, 3, [0, 0, 0]⟩ := by decide +kernel

/-! ### States that meet the hypotheses of the statements -/

theorem meets_StepRunsTheFrontCommand : (station.withFront .frameBoundary).pending = [.frameBoundary] := rfl
theorem meets_IdleStep : station.pending = [] ∧ dueCommands station = [] ∧
    dueCommands { station with clock := 100000 } ≠ [] := by decide +kernel
theorem meets_SettingsChange : GoesOn (exec .frameBoundary station) ∧ ∀ straps, Instr.frameBoundary ≠ .powerOn straps :=
  ⟨⟨_, rfl⟩, fun _ h => by cases h⟩

/-- A floor of one layer with a lot share and an UNASSIGNED share, and one RECEIVING. -/
def floor : Cfl := ⟨[⟨1, 0, 1, .ready, 0, 90, 90, 100, [⟨some 0, 1041, 60⟩, ⟨none, 0, 30⟩], none, none, false⟩,
  ⟨2, 1, 2, .resting, 0, 40, 40, 110, [⟨some 0, 1041, 40⟩], none, some 0, false⟩,
  ⟨3, 1, 2, .receiving, 70, 0, 0, 110, [], none, none, false⟩], 4⟩

def ticket (serial : Nat) (st : TicketState) : Ticket :=
  { builtTicket ⟨0, 1041, .final⟩ (lotOf 1041 .complete station) station with serial := serial, state := st }

def busy : State := { withKiln 0 .filling station with
  cfl := floor
  tku := { Tku.powerOn with credits := 255, queue := [ticket 1 .sent, ticket 2 .sendable] }
  rlu := { station.rlu with
    passBuffer := [mark 50 1 0], commands := [⟨60, 0, 5⟩], replies := [⟨3, [16, 32], refusal .notFound⟩]
    reports := [⟨2, .spill, 1, noContext⟩], starvation := 4 } }

theorem meets_EveryStepKeeps : LinkInv busy ∧ FloorInv busy ∧ RoomInv busy ∧ CountsInv busy ∧ TicketsInv busy ∧ FillingInv busy ∧
    GoesOn (step (busy.withFront .frameBoundary)) :=
  ⟨by decide +kernel, by decide +kernel, by decide +kernel, by decide +kernel, by decide +kernel,
    by unfold FillingInv; decide +kernel, ⟨_, rfl⟩⟩
theorem meets_FramesReadBack : (mark 50 1 0).fits = true ∧ Frame.fits ⟨1, 2, 9, List.replicate 240 0⟩ = true := by decide +kernel
theorem meets_ReceivedBytes : (Instr.hook (mark 50 1 0)).wellFormed = true ∧
    (Instr.hook (mark 50 1 0)).frame? = some (mark 50 1 0) ∧ (Instr.hook (mark 50 1 0)).arrives station = true ∧
    (Instr.kilnHold (request 3 15 [0])).wellFormed = true ∧ (Instr.kilnHold (request 3 15 [0])).arrives station = true := by
  decide +kernel
theorem meets_SplitAndParts : 10 < 2 ^ 32 ∧ [1, 1, 1].sum ≠ 0 ∧ [0, 0].sum = 0 ∧ split 10 [1, 2, 1] = some [3, 5, 2] ∧
    split 10 [2, 1, 1] = some [5, 3, 2] ∧ [1, 2, 1].Perm [2, 1, 1] ∧ [1, 2, 1].count 2 = 1 ∧ split 3 [1, 2, 1] = some [1, 1, 1] := by
  decide +kernel
theorem meets_MoistureOfABale : draws (closedBale 1500 false busy).net busy.cfl.layers = (0, 0) ∧
    draws (closedBale 1550 false busy).net busy.cfl.layers = (50, 0) ∧ ∀ l ∈ busy.cfl.layers, l.moisture ≤ 999 := by decide +kernel
theorem meets_SettlementMass : 50 ≤ station.mgu.config.reference ∧ station.mgu.config.reference ≤ 150 := by decide +kernel
theorem meets_FramesDroppedRemovedOrForwarded : frameBad [1, 2, 3] = true ∧ frameBad (wire strange) = false ∧
    fromOwn station (mark 1 1 0) = true ∧ fromOwn station (mark 50 7 0) = false ∧ marksNothing (mark 50 7 0) = true ∧
    marksNothing (mark 50 0 0) = true ∧ onlyPasses station ⟨9, 8, 5, []⟩ = true ∧ fromOwn station ⟨9, 8, 5, []⟩ = false ∧
    station.rlu.passBuffer.length < 2 ∧
    2 ≤ (onRlu (fun b => { b with passBuffer := [strange, strange] }) station).rlu.passBuffer.length := by decide +kernel

def setpoint (node number : Byte) (value : List Byte) : Frame := ⟨node, 70, 3, number :: value⟩

theorem meets_PassingCommandsAreGuarded :
    kindIs (setpoint 60 0 [0, 9]) 3 = true ∧ fromOwn station (setpoint 60 0 [0, 9]) = false ∧
    (setpoint 60 0 [0]).payload.length ≠ 3 ∧ guardEntry station 60 9 = none ∧
    guardEntry station 60 0 = some ⟨true, 60, 0, .feeder, 0⟩ ∧ guarded station ⟨true, 60, 0, .feeder, 0⟩ 0 = 0 ∧
    guarded station ⟨true, 60, 0, .feeder, 0⟩ 9 ≠ 9 ∧ station.pru.permit = .hold ∧ station.kfr.diverter = none ∧
    (∃ i, ((withKiln 0 (.drying 1) station).kilns.get 0).state = .drying i) ∧
    (∃ k, ((withKiln 0 .unloading station).kilns.get k).state = .unloading) ∧
    (∀ k, (station.kilns.get k).state ≠ .unloading) :=
  ⟨by decide +kernel, by decide +kernel, by decide +kernel, by decide +kernel, by decide +kernel, by decide +kernel,
    by decide +kernel, by decide +kernel, by decide +kernel, ⟨1, by decide +kernel⟩, ⟨0, by decide +kernel⟩, by decide +kernel⟩
theorem meets_ChoiceAndInsertion : station.rlu.passBuffer = [] ∧ inserting station = false ∧ inserting busy = true ∧
    busy.rlu.passBuffer = [mark 50 1 0] ∧ starvationLimit busy = 4 ∧ busy.rlu.starvation = 4 ∧
    inserting (onRlu (fun b => { b with passBuffer := [strange] }) station) = false ∧
    (onRlu (fun b => { b with starvation := 3 }) busy).rlu.starvation < 4 ∧ busy.rlu.commands = [⟨60, 0, 5⟩] ∧
    guardEntry busy 60 0 ≠ none ∧ State.reset.mgu.configValid = false := by decide +kernel

/-- One queue of the link alone has something to insert. -/
def onlyReply : State := onRlu (fun b => { b with commands := [], passBuffer := [] }) busy
def onlyReport : State := onRlu (fun b => { b with replies := [] }) onlyReply
def onlySegment : State := onRlu (fun b => { b with reports := [], slot := some ⟨2, 0, 3, []⟩ }) onlyReport

theorem meets_InsertionOfEachKind : onlyReply.rlu.replies.length = 1 ∧ onlyReply.rlu.commands = [] ∧
    onlyReport.rlu.reports.length = 1 ∧ onlyReport.rlu.replies = [] ∧ onlySegment.rlu.reports = [] ∧
    onlySegment.rlu.slot.isSome = true := by decide +kernel
theorem meets_Posting : strapOk station = true ∧ strapOk (onRlu (fun b => { b with address := 127 }) station) = false ∧
    strapOk (onRlu (fun b => { b with address := 126 }) station) = true ∧ station.rlu.replies.length < 8 ∧
    (List.replicate 8 (⟨3, [], refusal .notFound⟩ : Reply)).length = 8 ∧
    commandActuator ⟨60, 0, 5⟩ = commandActuator ⟨60, 0, 9⟩ := by decide +kernel
theorem meets_Occurrences : (station.mgu.events.get 0).flag = false ∧ station.mgu.reportDest = none ∧
    (onMgu (fun b => { b with reportDest := some 2 }) station).mgu.reportDest = some 2 := by decide +kernel
theorem meets_Restart : kindIs ⟨127, 9, 8, []⟩ 8 = true ∧ fromOwn station ⟨127, 9, 8, []⟩ = false ∧
    bringsRestart station ⟨127, 9, 8, []⟩ = true ∧ bringsRestart station ⟨1, 9, 8, []⟩ = true ∧
    bringsRestart station ⟨7, 9, 8, []⟩ = false ∧ (station.channels.get 0).state ≠ .unseen := by decide +kernel

/-- Deadlines of every kind, each set for the present clock value. -/
def deadlines : State := { station with
  cfl := floor
  pru := { Pru.powerOn with state := .weighing, settle := some 0 }
  uar := ⟨[], some ⟨1, 3, 900, 110, 0, some 0, some 0⟩⟩
  itk := { Itk.powerOn with transit := [⟨some 0, 0⟩], lots := (Tab.fill 32 none).put 0 (some (lotOf 1041 .hooking station)) }
  channels := station.channels.put 0 { channel 40 0 .load 0 with staleDeadline := some 0 }
  kilns := station.kilns.put 0 { Kiln.powerOn with state := .endpoint, overdry := some 0, evalDeadline := some 0 }
  rlu := { station.rlu with silenceFrom := some 4294966000 } }

theorem meets_Deadlines : staleDue deadlines 0 = true ∧ transitHeadDue deadlines = true ∧ evaluationDue deadlines 0 = true ∧
    overdryDue deadlines 0 = true ∧ settleDue deadlines = true ∧ overrunDue deadlines = true ∧ restDueOf deadlines 2 = true ∧
    pressDue deadlines = true ∧ silencePassed deadlines = true ∧ secondDue { deadlines with clock := 1000 } = true ∧
    deadlines.mgu.config.idleTimeout < elapsed 4294966000 deadlines.clock := by decide +kernel
theorem meets_NoDeadline : staleDue station 0 = false ∧ transitHeadDue station = false ∧ evaluationDue station 0 = false ∧
    overdryDue station 0 = false ∧ settleDue station = false ∧ overrunDue station = false ∧ restDueOf station 2 = false ∧
    pressDue station = false ∧ silencePassed station = false ∧ secondDue station = false := by decide +kernel
theorem meets_Samples : kindIs ⟨9, 40, 1, [1, 0, 0, 1, 0, 0]⟩ 1 = true ∧ fromOwn station ⟨9, 40, 1, [1, 0, 0, 1, 0, 0]⟩ = false ∧
    field [0] 0 1 = 0 ∧ 16 < field [17] 0 1 ∧ [1, 0].length ≠ 1 + 5 * field [1, 0] 0 1 ∧
    matching station 40 0 = some 0 ∧ matching station 40 9 = none ∧ (station.channels.get 0).state ≠ .fault ∧
    (∀ i, (station.channels.get i).valid = true → (station.channels.get i).sourceNode = 9 →
      (station.channels.get i).sourceChannel ≠ 0) := by decide +kernel
theorem meets_SampleLimits : scaled 1000000 1024 0 = 1000000 ∧ (station.channels.get 0).high = 1000000 ∧
    (station.channels.get 0).high < scaled 1000001 1024 0 ∧ scaled (-1000001) 1024 0 < (station.channels.get 0).low := by
  decide +kernel
theorem meets_Plenum : (setupOf station 0).plenum = 6 ∧
    ((setupOf station 0).ceiling + station.mgu.config.overtempMargin : Int) < 691 ∧
    690 ≤ ((setupOf station 0).ceiling + station.mgu.config.overtempMargin : Int) := by decide +kernel

/-! ### Marks and the intake -/

theorem meets_Marks : MarkTaken station (mark 50 1 0) (·.hookNode) ∧ MarkTaken station (mark 50 2 0) (·.hookNode) ∧
    MarkPassed station (mark 49 1 0) (·.hookNode) ∧ MarkPassed State.reset (mark 50 1 0) (·.hookNode) ∧
    fromOwn station (mark 49 1 0) = false ∧ marks (mark 50 1 0) 1 = true ∧ marks (mark 50 2 0) 2 = true ∧
    MarkTaken station (mark 51 3 0) (·.pressNode) ∧ MarkPassed station (mark 50 3 0) (·.pressNode) ∧
    marks (mark 51 3 0) 3 = true ∧ marks (mark 51 4 0) 4 = true ∧ marks (mark 51 5 0) 5 = true ∧
    MarkTaken station (mark 52 6 1) (·.unloadNode) ∧ MarkPassed station (mark 51 6 1) (·.unloadNode) ∧
    marks (mark 52 6 1) 6 = true := by decide +kernel

/-- A hook lot with a target of 2 and one hook, and a lot queued behind it. -/
def picking : State :=
  let s := onItk (fun b => { b with hookLot := some 0, queue := [1] }) (withLot 1 1042 .queued station)
  setLot 0 (some { lotOf 1041 .hooking station with hookTarget := 2, hooks := 1 }) s

def fourListed (s : State) : State := onItk (fun b => { b with transit := List.replicate 4 ⟨none, 5⟩ }) s

theorem meets_HookMarks : station.itk.hookLot = none ∧ picking.itk.hookLot = some 0 ∧ (lotAt picking 0).isSome = true ∧
    (lotAt picking 0).map (fun l => decide (min (l.hooks + 1) 65535 = l.hookTarget)) = some true := by decide +kernel
theorem meets_PressMarks : station.pru.state = .idle ∧ (movePress .charging station).pru.state = .charging ∧
    (movePress .pressing station).pru.state = .pressing := by decide +kernel
theorem meets_Hooking :
    let ending := onItk (fun b => { b with queue := [] }) picking
    let idle := onItk (fun b => { b with hookLot := none }) picking
    (lotAt ending 0).isSome = true ∧ ending.itk.queue = [] ∧ ending.itk.transit.length < 4 ∧
    4 ≤ (fourListed ending).itk.transit.length ∧ started State.reset = false ∧ picking.itk.hookLot ≠ none ∧
    station.itk.queue = [] ∧ started idle = true ∧ idle.itk.hookLot = none ∧ idle.itk.queue = [1] ∧
    idle.itk.transit.length < 4 ∧ (lotAt idle 1).isSome = true ∧ 4 ≤ (fourListed idle).itk.transit.length := by decide +kernel
theorem meets_TransitEntry : deadlines.itk.transit = [⟨some 0, 0⟩] ∧ reached 0 deadlines.clock = true := by decide +kernel

/-- The picking station with a kiln filling, and the others not eligible, at a given booked green. -/
def fillingAt (green : Nat) : State :=
  let s := withKiln 0 .filling (withKiln 1 .loaded (withKiln 2 .loaded (withKiln 3 .loaded picking)))
  onKfr (fun b => { b with diverter := some 0, loads := b.loads.put 0 ⟨some 1, [⟨some 0, 1041, green, 780, 0⟩], 0, false⟩ }) s

theorem meets_FeedPermit : started State.reset = false ∧ station.itk.hookLot = none ∧
    (configLive picking picking.mgu.config.beltLoad && configLive picking picking.mgu.config.beltSpeed) = true ∧
    configLive (onMgu (fun b => { b with configValid := false }) picking) 0 = false ∧
    fillingKiln picking = none ∧ anyEligible picking = true ∧ fillingKiln (withKiln 0 .filling picking) = some 0 ∧
    anyEligible (withKiln 0 .filling picking) = true ∧ anyEligible (fillingAt 0) = false ∧
    roomOf (fillingAt 2400001) 0 < 200000 ∧ 200000 ≤ roomOf (fillingAt 2400000) 0 ∧ roomOf (fillingAt 2200001) 0 < 400000 ∧
    400000 ≤ roomOf (fillingAt 2200000) 0 ∧
    fillingKiln (withKiln 0 .loaded (fillingAt 0)) = none := by decide +kernel
theorem meets_FeedDecided : (feedDecision station).1 = .hold ∧ station.itk.permit = .hold ∧ (feedDecision picking).1 ≠ .hold ∧
    actuatorFor (fillingAt 0) .diverter = some ⟨true, 60, 1, .diverter, 0⟩ ∧ (fillingAt 0).kfr.diverter = some 0 ∧
    picking.kfr.diverter = none ∧ (onItk (fun b => { b with permit := .go }) station).itk.permit ≠ .hold := by decide +kernel
theorem meets_Belt : 0 ≤ heldValue station station.mgu.config.beltSpeed ∧
    heldValue (setChannel 1 (channel 40 1 .speed (-30)) station) 1 < 0 ∧ station.itk.weighLot = none ∧
    (lotAt deadlines 0).isSome = true ∧
    (onItk (fun b => { b with weighLot := some 0 }) deadlines).itk.weighLot = some 0 := by decide +kernel
theorem meets_Selection : started picking = true ∧ fillingKiln picking = none ∧ picking.itk.hookLot ≠ none ∧
    eligible picking 0 = true ∧ eligible (withKiln 0 .loaded picking) 1 = true ∧
    eligible (withKiln 0 .loaded picking) 0 = false ∧ fillingKiln (fillingAt 0) ≠ none ∧
    actuatorFor picking .diverter = some ⟨true, 60, 1, .diverter, 0⟩ ∧
    actuatorFor { picking with actuators := State.reset.actuators } .diverter = none ∧
    (selectKiln picking).rlu.commands = [⟨60, 1, 0⟩] := by decide +kernel
theorem meets_Placing : picking.kfr.diverter = none ∧ (fillingAt 0).kfr.diverter = some 0 ∧
    ((fillingAt 0).kilns.get 0).state = .filling ∧ holdsContribution (loadOf (fillingAt 0) 0) 0 = true ∧
    holdsContribution (loadOf (fillingAt 0) 0) 1 = false ∧ (loadOf (fillingAt 0) 0).contributions.length < 6 ∧
    ((withKiln 0 .loaded (fillingAt 0)).kilns.get 0).state = .loaded ∧
    ((withKiln 0 .empty (fillingAt 0)).kilns.get 0).state = .empty := by decide +kernel

/-! ### Requests -/

theorem meets_Requests : Asked station (request 3 15 [0]) ∧ classOf station 3 = .operator ∧ classOf station 2 = .weighmaster ∧
    classOf station 9 = .viewer ∧ Asked station (request 9 15 [0]) ∧ asks (request 3 15 [0]) 15 = true ∧
    argsLength (request 3 15 []) 1 = false ∧ argsLength (request 3 15 [0]) 1 = true ∧
    toOwn station (requestFrame 5 3 [16, 32] 15 [0]) = false ∧ fromOwn station (requestFrame 5 3 [16, 32] 15 [0]) = false ∧
    toOwn station (request 0 15 [0]) = true ∧ fromOwn station (request 0 15 [0]) = false ∧
    toOwn station (request 127 15 [0]) = true ∧ asksNothing (request 3 28 []) = true ∧ asksNothing (request 3 0 []) = true ∧
    asksNothing ⟨1, 3, 4, [16, 32]⟩ = true ∧ Asked station ⟨1, 3, 4, [16, 32]⟩ ∧ Asked State.reset (request 126 15 [0]) := by
  decide +kernel
theorem meets_UndefinedRequests : asksNothing (request 127 28 []) = true ∧ fromOwn station (request 127 28 []) = false ∧
    126 < (request 127 28 []).src.toNat ∧ (request 0 28 []).src = 0 ∧ toOwn station (request 0 28 []) = true ∧
    asksNothing (requestFrame 5 3 [16, 32] 28 []) = true ∧ toOwn station (requestFrame 5 3 [16, 32] 28 []) = false := by
  decide +kernel
theorem meets_TableReads : ∀ r ∈ tableReadRows,
    let f := request 9 1 [BitVec.ofNat 8 r.code, BitVec.ofNat 8 r.hi, 1]
    Asked station f ∧ asksOf f 1 r.code = true ∧ argsLength f 3 = true ∧ arg f 2 1 ≠ 0 ∧ r.lo ≤ arg f 1 1 ∧
      arg f 1 1 + arg f 2 1 - 1 ≤ r.hi ∧ r.hi < arg (request 9 1 [BitVec.ofNat 8 r.code, BitVec.ofNat 8 r.hi, 2]) 1 1 + 2 - 1 := by
  decide +kernel
theorem meets_StatusReads : ∀ r ∈ statusReadRows,
    let f := request 9 3 [BitVec.ofNat 8 r.code, 0, 0, 0]
    Asked station f ∧ asksOf f 3 r.code = true ∧ argsLength f 4 = true ∧ arg f 3 1 = 0 := by decide +kernel
theorem meets_StatusKeys : lotOfNumber (withLot 0 1041 .queued station) 1041 ≠ none ∧ lotOfNumber station 1041 = none ∧
    ticketOf busy 1 ≠ none ∧ baleOf station 1 = none := by decide +kernel

/-- A TABLE-WRITE of entries from an index upward. -/
def tableWrite (src table first count : Byte) (entries : List Byte) : Frame := request src 2 ([table, first, count] ++ entries)

theorem meets_WindowsOfWrites : ∀ p ∈ [(0, 19), (1, 5), (2, 4), (3, 16), (4, 55)],
    let r := tableWriteRows[p.1]?
    let f := tableWrite 2 (BitVec.ofNat 8 (p.1 + 1)) 64 1 (List.replicate p.2 0)
    (r.map (fun r => r.ofRow f && r.form f && r.may f station (classOf station f.src.toNat))) = some true ∧ arg f 1 1 = 64 ∧
      Asked station f := by decide +kernel
theorem meets_RefusedWrites : headForm (tableWrite 3 6 8 1 []) = true ∧ asksOf (tableWrite 3 6 8 1 []) 2 6 = true ∧
    arg (tableWrite 3 6 8 1 []) 1 1 + 1 ≤ 9 ∧ asksOf (tableWrite 3 7 95 1 []) 2 7 = true ∧ headForm (tableWrite 3 7 95 1 []) = true ∧
    arg (tableWrite 3 7 95 1 []) 1 1 + arg (tableWrite 3 7 95 1 []) 2 1 ≤ 96 := by decide +kernel
theorem meets_NodeClassWrites :
    let good := tableWrite 2 3 15 1 [1, 127, 127, 2]
    Asked station good ∧ asksOf good 2 3 = true ∧ writeForm good 4 = true ∧ classOf station good.src.toNat = .weighmaster ∧
      arg good 1 1 + arg good 2 1 ≤ 16 ∧ entryFor good 4 15 = [1, 127, 127, 2] ∧ field [1, 127, 127, 3] 3 1 = 3 ∧
      127 < field [1, 128, 0, 1] 1 1 := by decide +kernel

/-- A channel entry: source node 44, channel 15, TEMP, gain 1024, no offset, exponent 7, limits −500 and 2000. -/
def channelEntry : List Byte := [1, 44, 15, 0, 4, 0, 0, 0, 0, 0, 7, 255, 255, 254, 12, 0, 0, 7, 208]

theorem meets_ChannelWrites :
    let f := tableWrite 3 1 63 1 channelEntry
    let taken := tableWrite 3 1 63 1 (channelEntry.set 1 42 |>.set 2 3)
    Asked station f ∧ asksOf f 2 1 = true ∧ writeForm f 19 = true ∧ mayWriteChannels f station .operator = true ∧
      arg f 1 1 + arg f 2 1 ≤ 64 ∧ entryFor f 19 63 = channelEntry ∧ statuses (after busy (.tableWriteChannel f)) ≠ [] ∧
      (writeChannels f station).2 = done [] ∧ (writeChannels taken station).2 = refusal .duplicate ∧
      (writeChannels (tableWrite 3 1 63 1 (channelEntry.set 3 6)) station).2 = refusal .outOfRange ∧
      (writeChannels (tableWrite 3 1 63 1 (channelEntry.set 10 8)) station).2.status = .doneClamped := by decide +kernel
theorem meets_ActuatorWrites :
    let f := tableWrite 3 2 23 1 [1, 126, 255, 2, 3]
    OperatorAsks station f ∧ asksOf f 2 2 = true ∧ writeForm f 5 = true ∧ arg f 1 1 + arg f 2 1 ≤ 24 ∧
      (writeActuators f station).2 = done [] ∧
      (writeActuators (tableWrite 3 2 23 1 [1, 60, 0, 6, 0]) station).2 = refusal .duplicate ∧
      (writeActuators (tableWrite 3 2 23 1 [1, 126, 255, 6, 4]) station).2 = done [] ∧
      ((writeActuators f station).1.actuators.get 23).kiln = 3 ∧ (writeActuators f station).1.freeCount = 1 ∧
      (writeActuators (tableWrite 3 2 23 1 [1, 126, 255, 2, 4]) station).2 = refusal .outOfRange := by decide +kernel

theorem meets_WeighmasterItems :
    let temp := tableWrite 3 1 63 1 channelEntry
    let setting (i : Nat) (b : Byte) := tableWrite 3 5 0 1 (((configBytes config true).take 55).set i b)
    channelItem temp station = false ∧ channelItem (tableWrite 3 1 63 1 (channelEntry.set 3 3)) station = true ∧
      channelItem (tableWrite 3 1 2 1 channelEntry) station = true ∧ InWindow (tableWrite 3 1 2 1 channelEntry) 2 ∧
      (∀ i ∈ [20, 30, 48], configItem (setting i 77) station = true) ∧ configItem (setting 5 77) station = false ∧
      configItem (setting 30 77) State.reset = false ∧ started station = true ∧ started State.reset = false := by decide +kernel

def setupEntry : List Byte := [1, 63, 63, 63, 23, 23, 0, 15, 66, 64, 1, 44, 0, 0, 8, 1]

theorem meets_SetupWrites :
    let f := tableWrite 3 4 3 1 setupEntry
    OperatorAsks station f ∧ asksOf f 2 4 = true ∧ writeForm f 16 = true ∧ arg f 1 1 + arg f 2 1 ≤ 4 ∧
      (writeSetups f station).2 = done [] ∧ (writeSetups f (withKiln 3 .loaded station)).2 = refusal .refusedState ∧
      (writeSetups (tableWrite 3 4 3 1 (setupEntry.set 14 9)) station).2 = refusal .outOfRange := by decide +kernel

def configEntry : List Byte := (configBytes config true).take 55

theorem meets_ConfigWrites :
    let f := tableWrite 3 5 0 1 configEntry
    Asked station f ∧ asksOf f 2 5 = true ∧ writeForm f 55 = true ∧ mayWriteConfig f station .operator = true ∧
      arg f 1 1 = 0 ∧ arg f 2 1 = 1 ∧ carriedConfig f = config ∧ (writeConfig f station).2 = done [] ∧
      (writeConfig (tableWrite 3 5 0 1 (configEntry.set 2 127)) station).2 = refusal .outOfRange ∧
      floorBook (onCfl (fun _ => { floor with layers := floor.layers.map (fun l => { l with remaining := 900000 }) }) station) > 1500000 := by
  decide +kernel
theorem meets_Recipes : OperatorAsks station (request 3 4 [1, 1, 0, 30]) ∧ Carries (request 3 4 [1, 1, 0, 30]) 4 4 ∧
    Carries (request 3 5 [1, 2, 88, 3, 32, 60, 2, 0, 100, 0, 10, 0, 200]) 5 13 ∧ Carries (request 3 6 [1]) 6 1 ∧
    station.rct.staging = some ⟨2, 1, 0, []⟩ ∧ State.reset.rct.staging = none ∧ arg (request 3 4 [8, 6, 5, 160]) 2 2 = 1440 ∧
    EndKind.ofCode 2 = some .moisture ∧
    (endRecipe (request 3 6 [1]) (setStaging (some ⟨2, 1, 0, [⟨600, 800, 60, .moisture, 100, 10, 200⟩]⟩) station)).2 = done [] := by
  decide +kernel
theorem meets_TimeAndEvents : Carries (request 3 7 [0, 0, 0, 9]) 7 4 ∧ Carries (request 3 8 [0, 255, 255, 255]) 8 4 ∧
    Carries (request 3 9 [0, 0, 0, 1]) 9 4 ∧ arg (request 3 9 [0, 128, 0, 0]) 0 4 = 2 ^ 23 := by decide +kernel
theorem meets_Start :
    let waiting := onMgu (fun b => { b with mode := .transparent }) station
    OperatorAsks waiting (request 3 10 []) ∧ Carries (request 3 10 []) 10 0 ∧ started waiting = false ∧
      waiting.mgu.configValid = true ∧ started station = true ∧ State.reset.mgu.configValid = false ∧
      isOrphan waiting 0 = false ∧
      isOrphan (setChannel 2 (channel 41 0 .mass 20001) waiting) 0 = true ∧
      isOrphan (setChannel 2 (channel 41 0 .mass 20000) waiting) 0 = false := by decide +kernel

def opening (number grower target : Nat) : Frame :=
  request 3 11 (beBytes 2 number ++ beBytes 2 grower ++ [1] ++ beBytes 2 600 ++ beBytes 2 target)

theorem meets_LotRequests : OperatorWorks station (opening 1 4095 999) ∧ Carries (opening 1 4095 999) 11 9 ∧
    (openLot (opening 1 4095 999) station).2.status = .done ∧ (openLot (opening 0 1 0) station).2 = refusal .outOfRange ∧
    (openLot (opening 1 4096 0) station).2 = refusal .outOfRange ∧ (openLot (opening 1 1 1000) station).2 = refusal .outOfRange ∧
    (openLot (opening 1042 1 0) picking).2 = refusal .duplicate ∧
    (openLot (opening 7 1 0) (onItk (fun b => { b with queue := List.replicate 8 1 }) picking)).2 = refusal .noRoom ∧
    Carries (request 3 12 [4, 18]) 12 2 ∧ (cancelLot (request 3 12 [4, 18]) picking).2 = done [] ∧
    (cancelLot (request 3 12 [4, 17]) picking).2 = refusal .refusedState ∧
    (cancelLot (request 3 12 [4, 19]) picking).2 = refusal .notFound ∧ Carries (request 3 13 [4, 17]) 13 2 ∧
    (endLot (request 3 13 [4, 17]) picking).2 = done [] ∧ (endLot (request 3 13 [4, 18]) picking).2 = refusal .refusedState := by
  decide +kernel

/-- A station whose kiln 0 is in a state, its plenum LIVE at 500. -/
def kilnStation (st : KilnState) : State := withKiln 0 st station

theorem meets_KilnHold : Asked station (request 3 15 [3]) ∧ Carries (request 3 15 [3]) 15 1 ∧ Carries (request 3 15 [4]) 15 1 ∧
    ((kilnStation (.drying 1)).kilns.get 0).state = .drying 1 ∧ ((kilnStation (.held 1)).kilns.get 0).state = .held 1 ∧
    (station.kilns.get 0).state = .empty ∧ classOf station 9 = .viewer ∧ started State.reset = false := by decide +kernel
theorem meets_KilnRequests : OperatorWorks station (request 3 14 [0]) ∧ WeighmasterWorks station (request 2 19 [0]) ∧
    Carries (request 3 14 [0]) 14 1 ∧ Carries (request 3 16 [0]) 16 1 ∧ Carries (request 3 18 [0]) 18 1 ∧
    Carries (request 2 19 [0]) 19 1 ∧ Carries (request 3 20 [0, 8]) 20 2 ∧ arg (request 3 20 [0, 9]) 1 1 = 9 ∧
    arg (request 3 14 [4]) 0 1 = 4 ∧ (startKiln 0 (kilnStation .loaded)).2 = done [] ∧
    (resumeRequest 0 (kilnStation (.held 1))).2 = done [] ∧
    (resumeRequest 0 (setChannel 6 (channel 42 0 .temp 651) (kilnStation (.held 1)))).2 = refusal .refusedState ∧
    (closeFill 0 (fillingAt 5)).2 = done [] ∧ (closeFill 0 (kilnStation .filling)).2 = refusal .refusedState ∧
    (clearKiln 0 (kilnStation .orphan)).2 = done [] ∧ (clearKiln 0 station).2 = refusal .refusedState := by decide +kernel
theorem meets_KilnForceEnd : OperatorWorks station (request 3 17 [0]) ∧ Carries (request 3 17 [0]) 17 1 ∧
    (forceEnd 0 (kilnStation .loaded)).2 = done [] ∧ (forceEnd 0 (kilnStation (.drying 1))).2 = done [] ∧
    (forceEnd 0 (kilnStation (.held 1))).2 = done [] ∧ (forceEnd 0 (kilnStation .orphan)).2 = done [] ∧
    (forceEnd 0 station).2 = refusal .refusedState ∧ (forceEnd 0 (kilnStation .unloading)).2 = refusal .refusedState := by
  decide +kernel
theorem meets_DryingStart : isLive station (setupOf station 0).plenum = true ∧
    isLive (setChannel 6 Channel.powerOn station) (setupOf station 0).plenum = false := by decide +kernel

/-- Kiln 0 in a state, its evaluation timer expired, running the first recipe. -/
def evaluating (st : KilnState) (elapsed : Nat) : State := { station with kilns := station.kilns.put 0 { Kiln.powerOn with
  state := st, evalDeadline := some 0, elapsed := elapsed, running := some ⟨1, station.rct.recipes.getD 0 ⟨0, []⟩⟩ } }

theorem meets_Evaluation : ((evaluating (.drying 1) 0).kilns.get 0).evalDeadline = some 0 ∧ reached 0 station.clock = true ∧
    ((evaluating (.held 1) 0).kilns.get 0).state = .held 1 ∧ ((evaluating .endpoint 0).kilns.get 0).state = .endpoint ∧
    stageCount ((evaluating (.drying 1) 0).kilns.get 0) = 1 ∧
    ((after (evaluating (.drying 1) 11990) (.evaluationExpiry 0)).kilns.get 0).state = .unloading ∧
    ((after (evaluating (.drying 1) 11980) (.evaluationExpiry 0)).kilns.get 0).state = .drying 1 ∧
    ((after (evaluating (.drying 1) 0) (.evaluationExpiry 0)).kilns.get 0).setpoint = 10 := by decide +kernel
theorem meets_Unload : MarkTaken deadlines (mark 52 6 1) (·.unloadNode) ∧ marks (mark 52 6 1) 6 = true ∧
    station.uar.grant = none ∧ deadlines.uar.grant.isSome = true ∧ field (mark 52 6 0).payload 1 1 ≠ 1 ∧
    field (mark 52 6 1).payload 1 1 = 1 ∧
    ((after deadlines .unloadSettleDeadline).kilns.get 1).state = .empty := by decide +kernel
theorem meets_FloorAndPress : restDueOf deadlines 2 = true ∧ WeighmasterWorks busy (request 2 21 []) ∧ Carries (request 2 21 []) 21 0 ∧
    busy.pru.state = .idle ∧ (busy.cfl.layers.map (·.number)).Nodup ∧ deadlines.pru.state ≠ .idle ∧
    OperatorWorks station (request 3 22 []) ∧ Carries (request 3 22 []) 22 0 ∧
    (abortPress (movePress .charging station)).2 = done [] ∧ (abortPress station).2 = refusal .refusedState := by decide +kernel
theorem meets_BaleClose : deadlines.pru.state = .weighing ∧ deadlines.pru.settle = some 0 ∧
    configLive deadlines deadlines.mgu.config.pressScale = true ∧
    configLive (setChannel 10 Channel.powerOn deadlines) 10 = false ∧ deadlines.pru.log.length < 96 ∧
    (after deadlines .pressSettleDeadline).pru.log.length = 1 := by decide +kernel
theorem meets_Tickets : OperatorWorks busy (request 3 23 [0, 5]) ∧ asks (request 3 23 [0, 5]) 23 = true ∧
    argsLength (request 3 23 [0, 5]) 2 = true ∧ arg (request 3 23 [1, 5]) 0 1 = 1 ∧ 1 < arg (request 3 23 [2, 5]) 0 1 ∧
    Carries (request 3 24 []) 24 0 ∧ Carries (request 3 25 []) 25 0 ∧ Carries (request 3 26 []) 26 0 ∧
    busy.tku.run = true ∧ (setRun false busy).tku.run = false ∧ WeighmasterWorks busy (request 2 27 [0, 1]) ∧
    Carries (request 2 27 [0, 1]) 27 2 ∧ (releaseTicket (request 2 27 [0, 1]) busy).2.status = .done ∧
    (releaseTicket (request 2 27 [0, 2]) busy).2 = refusal .refusedState ∧
    (releaseTicket (request 2 27 [0, 3]) busy).2 = refusal .notFound ∧
    (releaseTicket (request 2 27 [0, 0]) busy).2 = refusal .outOfRange := by decide +kernel

/-! ### Notices and what they bring -/

/-- An arrival on a channel, and a state notice of one. -/
def arrival (c : Nat) (v : Int) : Notice := ⟨c, true, v, false, true, 0, .live, .live⟩
def change (c : Nat) (before after : ChannelState) : Notice := ⟨c, false, 0, false, false, 0, before, after⟩

/-- A station with the conveyor granted to kiln 1, its settle deadline as given. -/
def granted (settle : Option Time) : State := onUar (fun _ => ⟨[], some ⟨1, 3, 18450, 110, 0, some 9, settle⟩⟩) station

theorem meets_HeardFrames : (heard State.reset).rlu.silenceFrom = none ∧ (heard station).rlu.silenceFrom = some 0 ∧
    State.reset.mgu.configValid = false ∧ station.mgu.configValid = true := by decide +kernel
theorem meets_IntakeAndFillNotices :
    ((arrival 0 5).arrival = true ∧ station.mgu.configValid = true ∧ (arrival 0 5).channel = station.mgu.config.beltLoad) ∧
    (change 1 .live .stale).channel = station.mgu.config.beltSpeed ∧
    (∃ k, (setupOf station k).enabled = true ∧ (station.kilns.get k).state = .empty ∧
      (setupOf station k).scale = (change 2 .unseen .live).channel ∧ (setupOf station k).scale = (change 2 .live .fault).channel) ∧
    (∀ k, (setupOf station k).scale ≠ (change 6 .live .stale).channel) ∧ (setupOf station 0).plenum = (arrival 6 691).channel ∧
    (setupOf station 1).plenum ≠ (arrival 6 691).channel ∧ (change 6 .live .stale).before = .live ∧
    (change 6 .unseen .live).before ≠ .live := by decide +kernel
theorem meets_UnloadNotices :
    (∃ k, (setupOf station k).scale = (change 3 .unseen .live).channel) ∧ station.uar.grant = none ∧
    (granted none).uar.grant ≠ none ∧ (setupOf (granted none) 1).scale = 3 ∧ (setupOf (granted none) 1).scale ≠ (arrival 2 0).channel ∧
    ((arrival 3 20000).value - (loadOf (granted none) 1).tare).toNat ≤ (granted none).mgu.config.emptyThreshold ∧
    ¬ ((arrival 3 20001).value - (loadOf (granted none) 1).tare).toNat ≤ (granted none).mgu.config.emptyThreshold ∧
    ((uarNotice (arrival 3 20000) (granted none)).uar.grant.bind (·.settle)) = some 20000 ∧
    ((uarNotice (arrival 3 20000) (granted (some 7))).uar.grant.bind (·.settle)) = some 7 ∧
    ((uarNotice (arrival 3 20001) (granted (some 7))).uar.grant.bind (·.settle)) = none ∧
    ((uarNotice (change 3 .live .stale) (granted (some 7))).uar.grant.bind (·.settle)) = none ∧
    ((uarNotice (change 3 .stale .fault) (granted (some 7))).uar.grant.bind (·.settle)) = some 7 := by decide +kernel

/-- A station whose kiln 0 waits for the conveyor. -/
def waitingHead : State := onUar (fun b => { b with requests := [0] }) (kilnStation .endpoint)

theorem meets_UnloadGrant :
    waitingHead.uar.requests = [0] ∧ waitingHead.uar.grant = none ∧ waitingHead.cfl.layers.length < 16 ∧
    floorBook waitingHead + 18450 ≤ waitingHead.mgu.config.floorCapacity ∧
    waitingHead.cfl.nextNumber ∉ waitingHead.cfl.layers.map (·.number) ∧
    ((grantTest waitingHead).kilns.get 0).state = .unloading ∧ (grantTest waitingHead).cfl.layers.map (·.provisional) = [18450] ∧
    nextLayerNumber (onCfl (fun _ => { floor with nextNumber := 1 }) waitingHead) = 4 ∧
    16 ≤ (onCfl (fun _ => ⟨List.replicate 16 ⟨1, 0, 1, .ready, 0, 1, 1, 0, [], none, none, false⟩, 2⟩) waitingHead).cfl.layers.length ∧
    waitingHead.mgu.config.floorCapacity <
      floorBook (onCfl (fun _ => ⟨[⟨1, 0, 1, .ready, 0, 1481551, 1481551, 0, [], none, none, false⟩], 2⟩) waitingHead) + 18450 ∧
    (granted none).uar.grant ≠ none ∧ actuatorFor station .unloadConveyor = some ⟨true, 60, 3, .unloadConveyor, 0⟩ ∧
    actuatorFor State.reset .unloadConveyor = none := by decide +kernel
theorem meets_PressNotices : station.mgu.config.pressScale = (arrival 10 5).channel ∧ deadlines.pru.state = .weighing ∧
    (pruNotice (arrival 10 5) deadlines).pru.state = .idle ∧ (pruNotice (arrival 10 5) station).pru = station.pru ∧
    (change 11 .live .stale).channel = station.mgu.config.pressCharge ∧ (change 11 .live .stale).before ≠ .stale := by decide +kernel

/-! ### The intake and the filling kiln, case by case -/

theorem meets_EndOfHooking :
    (lotAt picking 0).isSome = true ∧ picking.itk.queue ≠ [] ∧
    (endHooking 0 picking).itk.hookLot = some 1 ∧ (endHooking 0 picking).itk.transit.length = 1 ∧
    (let full := fourListed (onItk (fun b => { b with queue := [] }) picking)
     full.itk.deferred = false ∧ full.itk.boundary = false ∧ (endHooking 0 full).itk.boundary = true ∧
       (onItk (fun b => { b with deferred := true }) full).itk.deferred = true) := by decide +kernel

/-- The station whose transit head falls due, its weigh lot `w`, the entries behind the head, and a held boundary. -/
def entering (w : Option (Fin 32)) (behind : Nat) (boundary : Bool) : State := onItk (fun b => { b with
  hookLot := none, queue := [1], weighLot := w, boundary := boundary, transit := ⟨some 0, 0⟩ :: List.replicate behind ⟨none, 5⟩ })
  picking

theorem meets_TransitEntryCases :
    (entering none 0 false).itk.weighLot = none ∧ (lotAt (entering (some 0) 0 false) 0).isSome = true ∧
    started (entering none 0 false) = true ∧ (entering none 0 false).itk.hookLot = none ∧
    (after (entering none 0 false) .transitEntryDue).itk.transit = [⟨some 1, 600000⟩] ∧
    (after (entering none 2 true) .transitEntryDue).itk.transit =
      [⟨none, 5⟩, ⟨none, 5⟩, ⟨none, 600000⟩, ⟨some 1, 600000⟩] ∧
    (after (entering none 3 true) .transitEntryDue).itk.transit.length = 4 ∧
    (after (entering none 3 true) .transitEntryDue).itk.queue = [1] := by decide +kernel

/-- The picking station weighing lot 0. -/
def weighing : State := onItk (fun b => { b with weighLot := some 0 }) picking

theorem meets_BeltIncrements :
    station.itk.prevBelt = none ∧ (200 * 2 ^ (station.channels.get 0).exponent : Nat) = 200 ∧
    isLive station station.mgu.config.beltSpeed = true ∧ isLive (setChannel 1 Channel.powerOn station) 1 = false ∧
    ((lotAt (beltArrival 0 9 201 (onItk (fun b => { b with prevBelt := some 0 }) weighing)) 0).map (·.flags.gap)) = some true ∧
    ((lotAt (beltArrival 0 9 200 (onItk (fun b => { b with prevBelt := some 0 }) weighing)) 0).map (·.flags.gap)) = some false ∧
    (weighing.itk.weighLot = some 0 ∧ (lotAt weighing 0).isSome = true ∧ weighing.itk.reversing = false) ∧
    (onItk (fun b => { b with reversing := true }) weighing).itk.reversing = true ∧
    ((lotAt (carryGrams 1 weighing) 0).map (·.greenFed)) = some 1 := by decide +kernel
theorem meets_Filling : fillingKiln picking = none ∧ fillingKiln (fillingAt 0) = some 0 ∧ (lotAt (fillingAt 0) 0).isSome = true ∧
    (setupOf (fillingAt 2600000) 0).greenCapacity ≤ min ((loadOf (fillingAt 2600000) 0).contributions.map (·.green)).sum 4294967295 ∧
    (∃ j, eligible (withKiln 0 .filling picking) j = true) ∧ (∀ j, eligible (fillingAt 0) j = false) ∧
    2600000 - 2400001 < (fillingAt 0).mgu.config.feedQuantum ∧ ((lowRoomClose (fillingAt 2400001)).kilns.get 0).state = .loaded ∧
    ((lowRoomClose (fillingAt 2400000)).kilns.get 0).state = .filling ∧
    ((capacityClose 0 (fillingAt 2600000)).kilns.get 0).state = .loaded ∧
    (growContribution 0 7 (loadOf (fillingAt 5) 0)).contributions.map (·.green) = [12] ∧
    (growContribution 1 7 (loadOf (fillingAt 5) 0)).contributions.map (·.green) = [5] := by decide +kernel
theorem meets_Autostart :
    let auto := onKfr (fun b => { b with setups := b.setups.put 0 { kilnSetup 0 with autostart := true } }) (fillingAt 5)
    (setupOf auto 0).autostart = true ∧ (setupOf auto 0).recipe ≠ 0 ∧ (auto.rct.recipes.getD 0 ⟨0, []⟩).stages ≠ [] ∧
    ((enterLoaded 0 auto).kilns.get 0).state = .drying 1 ∧ ((enterLoaded 0 (fillingAt 5)).kilns.get 0).state = .loaded ∧
    ((lotAt (enterLoaded 0 auto) 0).map (·.kilnRefs)) = some 1 := by decide +kernel

/-! ### The kilns, case by case -/

theorem meets_KilnHolds :
    ((holdKiln 0 ⟨false, true, false⟩ (evaluating (.drying 1) 0)).kilns.get 0).state = .held 1 ∧
    ((holdKiln 0 ⟨false, true, false⟩ (kilnStation (.held 1))).kilns.get 0).causes = ⟨false, true, false⟩ ∧
    (∀ k, (station.kilns.get k).state = .empty) ∧
    station.actuators.getD (setupOf station 0).burner Actuator.powerOn = ⟨true, 61, 0, .burner, 0⟩ ∧
    station.actuators.getD (setupOf station 0).fan Actuator.powerOn = ⟨true, 61, 10, .fan, 0⟩ ∧
    (station.actuators.getD (setupOf station 1).burner Actuator.powerOn).valid = false ∧
    ((evaluating (.drying 1) 0).kilns.get 0).running.bind (·.copy.stages[0]?) = some ⟨600, 800, 60, .moisture, 100, 10, 200⟩ := by
  decide +kernel

/-- The station with a load of given green in kiln 0, its scale at 18450 g. -/
def loadedAt (green dry : Nat) (s : State) : State := setLoad 0 ⟨some 1, [⟨some 0, 1041, green, 780, dry⟩], 0, false⟩ s

theorem meets_LoadMismatch : isLive station (setupOf station 0).scale = true ∧
    isLive (setChannel 2 Channel.powerOn station) (setupOf station 0).scale = false ∧
    (loadOf (mismatchCheck 0 (loadedAt 17571 0 station)) 0).suspect = true ∧
    (loadOf (mismatchCheck 0 (loadedAt 17572 0 station)) 0).suspect = false := by decide +kernel

/-- A DRYING kiln 0 at the first of two stages, its debounce count 2 and its stage's kind and minimum as given. -/
def debouncing (kind : EndKind) (elapsed : Nat) : State :=
  let st : Stage := ⟨600, 800, 60, kind, 500, 10, 200⟩
  loadedAt 18000 9000 { station with kilns := station.kilns.put 0 { Kiln.powerOn with
    state := .drying 1, evalDeadline := some 0, elapsed := elapsed, debounce := 2, running := some ⟨1, ⟨30, [st, st]⟩⟩ } }

/-- The kiln after an evaluation: its state, its debounce count, and stage elapsed. -/
def evaluated (s : State) : KilnState × Nat × Nat :=
  let k := (after s (.evaluationExpiry 0)).kilns.get 0
  (k.state, k.debounce, k.elapsed)

theorem meets_EndConditions :
    evaluated (debouncing .moisture 589) = (.drying 1, 0, 599) ∧
    evaluated (setChannel 2 (channel 41 0 .mass 18000) (debouncing .moisture 589)) = (.drying 1, 3, 599) ∧
    evaluated (setChannel 2 (channel 41 0 .mass 18000) (debouncing .moisture 590)) = (.drying 2, 0, 0) ∧
    evaluated (setChannel 20 (channel 42 9 .rh 500) (debouncing .rh 590)) = (.drying 2, 0, 0) ∧
    evaluated (setChannel 20 (channel 42 9 .rh 501) (debouncing .rh 590)) = (.drying 1, 0, 600) ∧
    evaluated (debouncing .time 11980) = (.drying 1, 2, 11990) ∧ evaluated (debouncing .time 11990) = (.drying 2, 0, 0) ∧
    evaluated (debouncing .rh 11990) = (.drying 2, 0, 0) := by decide +kernel
theorem meets_SuspectRun :
    dryTotal (loadOf (debouncing .time 0) 0) < netOf (debouncing .time 0) 0 ∧ netOf (setChannel 2 (channel 41 0 .mass 0) station) 0 = 0 ∧
    netOf (loadedAt 18000 18450 station) 0 ≤ dryTotal (loadOf (loadedAt 18000 18450 station) 0) ∧
    (station.kilns.get 0).suspectRun = false ∧ (loadOf (loadedAt 18000 18450 station) 0).suspect = false ∧
    (loadOf (formEstimate 0 (loadedAt 18000 18450 station)) 0).suspect = true ∧
    ((formEstimate 0 (loadedAt 18000 18450 station)).kilns.get 0).suspectRun = true := by decide +kernel

/-! ### Unload, press and bales, case by case -/

/-- A station unloading kiln 0, of which `net` grams were granted. -/
def unloadingOf (net : Nat) (dry : Nat) : State :=
  loadedAt 18000 dry (onUar (fun _ => ⟨[], some ⟨0, 3, net, 110, 0, none, some 0⟩⟩)
    (onCfl (fun _ => floor) (withKiln 0 .unloading (withLot 0 1041 .inProcess station))))

theorem meets_UnloadCompletion :
    ((unloadingOf 20450 9000).uar.grant.map (fun g => g.net - netOf (unloadingOf 20450 9000) g.kiln)) = some 2000 ∧
    (completeUnload ⟨0, 3, 18450, 110, 0, none, none⟩ (unloadingOf 18450 9000)).cfl.layers.length = 2 ∧
    (completeUnload ⟨0, 3, 20450, 110, 0, none, none⟩ (unloadingOf 20450 9000)).cfl.layers.map (·.remaining) = [90, 40, 2000] ∧
    layerShares 2000 (loadOf (unloadingOf 20450 9000) 0).contributions = [⟨some 0, 1041, 2000⟩] ∧
    layerShares 2000 (loadOf (unloadingOf 20450 0) 0).contributions = [⟨none, 0, 2000⟩] := by decide +kernel

/-- A READY layer of one lot, and a started station whose floor is a list of such layers, its press in a state. -/
def ready (number grams : Nat) : Layer := ⟨number, 0, 1, .ready, 0, grams, grams, 100, [⟨some 0, 1041, grams⟩], none, none, false⟩
def pressing (layers : List Layer) (st : PressState) : State :=
  onPru (fun p => { p with state := st, permit := .go }) (onCfl (fun _ => ⟨layers, 9⟩) (withLot 0 1041 .inProcess station))

/-- The same with the lot's reference list full, or with the charge channel at a value. -/
def refsFullOf (s : State) : State := setLot 0 ((lotAt s 0).map (fun l => { l with flags := { l.flags with refsFull := true } })) s
def charged (grams : Int) (s : State) : State := setChannel 11 (channel 43 1 .mass grams) s

theorem meets_PressPermit :
    horizonLayers (pressing [ready 1 60000, ready 2 50000] .idle) = [ready 1 60000, ready 2 50000] ∧
    horizonLayers busy = busy.cfl.layers.take 1 ∧ pressDecision (pressing [ready 1 99999] .idle) = (.slow, none) ∧
    pressDecision (pressing [ready 1 100000] .idle) = (.go, none) ∧ pressDecision (pressing [] .idle) = (.hold, some .noHorizon) ∧
    pressDecision (pressing [ready 1 5] .pressing) = (.hold, some .cycle) ∧
    pressDecision (refsFullOf (pressing [ready 1 5] .idle)) = (.hold, some .refsFull) ∧
    pressDecision (charged 98000 (pressing [ready 1 200000] .charging)) = (.go, none) ∧
    pressDecision (charged 98001 (pressing [ready 1 200000] .charging)) = (.slow, none) ∧
    pressDecision (charged 108000 (pressing [ready 1 200000] .charging)) = (.hold, some .chargeLimit) ∧
    pressDecision (setChannel 11 Channel.powerOn (pressing [ready 1 5] .charging)) = (.hold, some .chargeChannel) ∧
    pressDecision State.reset = (.hold, some .notStarted) ∧ (pressing [] .idle).pru.permit ≠ .hold := by decide +kernel

/-- A floor of two READY layers of two lots, and the bale of 101500 g gross that draws from both. -/
def twoLots : State := pressing [ready 1 60000, { ready 2 50000 with
  moisture := 120, shares := [⟨some 1, 1042, 30000⟩, ⟨some 0, 1041, 15000⟩, ⟨none, 0, 5000⟩] }] .weighing

theorem meets_BaleShares :
    let b := closedBale 101500 false twoLots
    draws b.net twoLots.cfl.layers = (60000, 40000) ∧ b.drawn = [1, 2] ∧ b.moisture = 108 ∧ b.unassigned = some 4000 ∧
    b.shares = [⟨some 0, 1041, 72000⟩, ⟨some 1, 1042, 24000⟩] ∧ FloorInv twoLots ∧
    (closeBale 101500 false twoLots).cfl.layers.map (·.remaining) = [10000] ∧
    (closeBale 101500 false twoLots).pru.state = .idle ∧
    (closedBale 121500 false twoLots).flags.bookShort = true := by decide +kernel
/-- A lot IN-PROCESS in slot 0 with `n` bale references. -/
def referring (n : Nat) (s : State) : State :=
  setLot 0 (some { lotOf 1041 .inProcess s with refs := List.replicate n ⟨1, 60, 100⟩, floorMass := 9 }) s

theorem meets_BaleLogAndRequests :
    let full := onPru (fun p => { p with log := List.replicate 96 (closedBale 1500 true busy) }) busy
    full.pru.log.length = 96 ∧ (logBale (closedBale 1550 false full) full).pru.log.length = 96 ∧
    (0, 1041) ∉ busy.pru.waiting ∧ (0, 1041) ∈ (onPru (fun p => { p with waiting := [(0, 1041)] }) busy).pru.waiting ∧
    ((lotAt (referring 48 station) 0).map (fun l => decide (l.refs.length = 48 ∧ l.state ≠ .complete))) = some true ∧
    (postShares (closedBale 1550 false busy) [⟨some 0, 1041, 5⟩] (referring 47 station)).2 = [(0, 1041)] ∧
    (postShares (closedBale 1550 false busy) [⟨some 0, 1041, 5⟩] (referring 46 station)).2 = [] ∧ (partRequest 0 1041 busy).2 = true ∧
    (partRequest 0 1041 (withLot 0 1041 .inProcess station)).2 = true ∧
    afterDraw 0 (ready 1 5) = [ready 1 5] ∧ afterDraw 5 (ready 1 5) = [] ∧ (afterDraw 4 (ready 1 5)).map (·.remaining) = [1] := by
  decide +kernel


/-! ### Lots that end, and tickets built and sent -/

/-- A ticket of `n` bale entries. -/
def ticketOfBales (n : Nat) (st : TicketState) : Ticket :=
  { ticket 2 st with entries := List.replicate n ⟨1, 0, 100, ⟨false, false, false, false⟩, false⟩ }

/-- That lot at the head of the wait list, behind `m` tickets of `bales` bale entries each. -/
def queued (kind : TicketKind) (n m bales : Nat) : State := onTku (fun t => { t with
  waitList := [⟨0, 1041, kind⟩], queue := List.replicate m (ticketOfBales bales .sendable) }) (referring n station)

theorem meets_LotUpdates : lotAt station 0 = none ∧ (lotAt (withLot 0 1041 .inProcess station) 0).isSome = true ∧
    (lotAt (withLot 0 1041 .inProcess station) 0).map (fun l => decide (l.state = .inProcess ∧ l.kilnRefs = 0 ∧ l.floorMass = 0))
      = some true ∧
    lotAt (completionTest 0 (withLot 0 1041 .inProcess station)) 0 = none ∧
    (lotAt (completionTest 0 (referring 1 station)) 0).isSome = true ∧
    (addBaleShare 5 7 100 ⟨false, false, false, false⟩ (lotOf 1041 .inProcess station)).refs = [⟨7, 5, 100⟩] ∧
    ((lotAt (referring 48 station) 0).map (fun l => (addBaleShare 5 7 100 ⟨false, false, false, false⟩ l).flags.refsFull)) =
      some true := by decide +kernel
theorem meets_BuildTests :
    station.tku.waitList = [] ∧ (buildTest (queued .part 1 0 0)).tku.queue.length = 1 ∧
    freeBlocks (queued .part 48 29 8) = 6 ∧ (buildTest (queued .part 48 29 8)).tku.blocked = true ∧
    32 ≤ (queued .part 1 32 0).tku.queue.length ∧ (buildTest (queued .part 1 32 0)).tku.blocked = true ∧
    freeBlocks (queued .part 48 32 8) = 0 ∧
    (buildTest (queued .part 48 32 8)).tku.blocked = true ∧ placePart ⟨0, 1041, .part⟩ [⟨1, 7, .part⟩, ⟨0, 1041, .final⟩] =
      [⟨1, 7, .part⟩, ⟨0, 1041, .part⟩, ⟨0, 1041, .final⟩] ∧
    (partRequest 0 1041 (queued .part 1 32 0)).2 = false ∧ (partRequest 0 1041 (queued .part 1 0 0)).2 = true := by decide +kernel
theorem meets_Builds :
    let ending := setLot 0 ((lotAt (queued .part 48 0 0) 0).map (fun l => { l with
      floorMass := 0, flags := { l.flags with refsFull := true } })) (queued .part 48 0 0)
    let logged := onPru (fun p => { p with log := [{ closedBale 1500 true busy with number := 1, shares := [⟨some 0, 1041, 60⟩] }] })
    (lotAt (buildTest (queued .part 48 0 0)) 0).map (fun l => (l.refs.length, l.partCount, l.state)) = some (0, 1, .inProcess) ∧
    lotAt (buildTest ending) 0 = none ∧ (buildTest ending).tku.queue.map (·.kind) = [.part, .final] ∧
    (buildTest (queued .final 1 0 0)).tku.queue.map (fun t => t.entries.map (·.found)) = [[false]] ∧
    (buildTest (logged (queued .final 1 0 0))).tku.queue.map (fun t => t.entries.map (·.found)) = [[true]] ∧
    station.tku.nextSerial ∉ station.tku.queue.map (·.serial) ∧ (builtTicket ⟨0, 1041, .part⟩ (lotOf 1041 .complete busy) busy).serial = 3 := by
  decide +kernel
theorem meets_TicketOffers :
    let broke := onTku (fun t => { t with credits := 0 }) busy
    let free := onRlu (fun b => { b with slot := none }) busy
    0 < busy.tku.credits ∧ (∀ t ∈ station.tku.queue, ¬ t.state ≠ .sent) ∧ (exhaustedTest broke).tku.exhausted = true ∧
    broke.tku.run = true ∧ broke.tku.exhausted = false ∧ strapOk free = true ∧
    (offerTest free).rlu.slot.map (fun g => (g.serial, g.index, g.count)) = some (2, 0, 1) ∧
    (let t := { ticketOfBales 9 .sending with next := 1 }
     (offerTest (onTku (fun b => { b with queue := [t] }) free)).rlu.slot.map (fun g => (g.index, g.count, g.body.length)) =
       some (1, 3, 8 * (ticketEntryBytes ⟨1, 0, 100, ⟨false, false, false, false⟩, false⟩).length) ∧
     advanced t = { t with next := 2 } ∧ advanced { t with next := 2 } = { t with next := 2, state := .sent }) := by decide +kernel

end Sys2Proof.Tests
end

section
/-! Channel scaling (R8): the quotient is the floor of the product over 1024, and the three steps stay within 64 bits. -/

namespace Sys2Proof.Machine

/-- The scaled value less the offset is the floor of the product over 1024 (R8, steps 2 and 3). -/
theorem scaled_sub_offset_bounds (x g c : Int) :
    1024 * (scaled x g c - c) ≤ x * g ∧ x * g < 1024 * (scaled x g c - c + 1) := by
  have hquot : scaled x g c - c = x * g / 1024 := add_sub_cancel_right _ c
  rw [hquot]
  exact ⟨Int.mul_ediv_self_le (by decide), by simpa [mul_add] using Int.lt_mul_ediv_self_add (by decide)⟩

/-- A channel whose gain is 0 serves as a constant (R8). -/
@[simp] theorem scaled_gain_zero (x c : Int) : scaled x 0 c = c := by
  simp [scaled]

/-- The scaled value reads the raw value and the gain through their product alone. -/
theorem scaled_of_mul_eq {x g p : Int} (c : Int) (h : x * g = p) : scaled x g c = p / 1024 + c := by
  rw [scaled, h]

/-- The product of a signed 24-bit raw value and a signed 16-bit gain lies within 2^38 of zero. -/
theorem raw_mul_gain_bounds {x g : Int} (hxlo : -8388608 ≤ x) (hxhi : x ≤ 8388607) (hglo : -32768 ≤ g)
    (hghi : g ≤ 32767) : -274877906944 ≤ x * g ∧ x * g ≤ 274877906944 := by
  have hx : |x| ≤ 8388608 := abs_le.mpr ⟨hxlo, by omega⟩
  have hg : |g| ≤ 32768 := abs_le.mpr ⟨hglo, by omega⟩
  refine abs_le.mp ?_
  calc |x * g| = |x| * |g| := abs_mul x g
    _ ≤ 8388608 * 32768 := mul_le_mul hx hg (abs_nonneg g) (by decide)
    _ = 274877906944 := by norm_num

/-- Settles O13: the floor's two bounds, the gain of 0, the spec's worked case, and the 64-bit range, which follows from
the bound on the product and the floor's bounds. -/
theorem scalingOfAGoodArrival : Obligations.ScalingOfAGoodArrival := by
  refine ⟨scaled_sub_offset_bounds, scaled_gain_zero,
    fun x g hprod => (scaled_of_mul_eq 0 hprod).trans (by decide), ?_⟩
  intro x g c hxlo hxhi hglo hghi hclo hchi
  obtain ⟨hplo, hphi⟩ := raw_mul_gain_bounds hxlo hxhi hglo hghi
  obtain ⟨hfloor, hceil⟩ := scaled_sub_offset_bounds x g c
  refine ⟨?_, ?_, ?_, ?_⟩ <;> omega

end Sys2Proof.Machine
end

section
/-! The intake and ticket units at power-on (R42, R148): the state POWER_ON leads to, and the tables and sums of that state. -/

namespace Sys2Proof.Tab

/-- The cells of a filled table hold its one entry alone. -/
theorem eq_of_mem_cells_fill {α : Type} {n : Nat} {x y : α} (h : y ∈ (fill n x).cells) : y = x :=
  List.eq_of_mem_replicate h

end Sys2Proof.Tab

namespace Sys2Proof.Machine

/-- Where POWER_ON leads: the power-on state of the straps, with the queue and the model's own fields kept. -/
theorem exec_powerOn (straps : BitVec 7) (s : State) :
    exec (.powerOn straps) s =
      .next { State.powerOn straps with pending := s.pending, sched := s.sched, freeCount := s.freeCount } := rfl

/-- No lot slot is in use in the intake unit at power-on (R42). -/
theorem Itk.powerOn_lots_get (i : Fin 32) : Itk.powerOn.lots.get i = none := Tab.get_fill none i

/-- Every occurrence is clear and uncounted at power-on (R189), those of the intake and ticket units with them (R42, R148). -/
theorem Mgu.powerOn_events_clear : ∀ e ∈ Mgu.powerOn.events.cells, e.flag = false ∧ e.count = 0 := by
  intro e hmem
  rw [Tab.eq_of_mem_cells_fill hmem]
  exact ⟨rfl, rfl⟩

/-- An empty ticket queue leaves all 64 blocks of the store free (R129). -/
theorem freeBlocks_of_queue_nil {s : State} (h : s.tku.queue = []) : freeBlocks s = 64 := by
  simp [freeBlocks, h]

/-- An empty ticket queue has no oldest unsent ticket. -/
theorem oldestUnsent_of_queue_nil {s : State} (h : s.tku.queue = []) : oldestUnsent s = none := by
  simp [oldestUnsent, h]

/-- What the CREDIT-EXHAUSTED test (R142) does with no unsent ticket: with credits it clears its indicator, without them
nothing, so it posts no occurrence. -/
theorem exhaustedTest_of_oldestUnsent_none {s : State} (h : oldestUnsent s = none) :
    exhaustedTest s = if 0 < s.tku.credits then onTku (fun b => { b with exhausted := false }) s else s := by
  simp [exhaustedTest, h]

/-- Settles O5: each unit's fields are read off the state that POWER_ON leads to; the test of an empty queue finds no
unsent ticket, so it changes the ticket unit alone or nothing. -/
theorem intakeAndTicketUnitAtPowerOn : Obligations.IntakeAndTicketUnitAtPowerOn := by
  refine ⟨fun straps s => ?intake, fun straps s => ?tickets, fun s hempty => ?test⟩
  case intake =>
    exact ⟨_, exec_powerOn straps s, Itk.powerOn_lots_get, rfl, rfl, rfl, rfl, rfl, rfl, rfl, rfl, rfl, rfl, rfl,
      Mgu.powerOn_events_clear⟩
  case tickets =>
    exact ⟨_, exec_powerOn straps s, rfl, rfl, freeBlocks_of_queue_nil rfl, rfl, rfl, rfl, rfl, rfl,
      Mgu.powerOn_events_clear⟩
  case test =>
    rw [exhaustedTest_of_oldestUnsent_none (oldestUnsent_of_queue_nil hempty)]
    split
    · exact ⟨mgu_onTku _ s, rlu_onTku _ s⟩
    · exact ⟨rfl, rfl⟩

end Sys2Proof.Machine
end

section
/-! The largest-remainder split (R155, R156): which entries receive a gram above their base, and what follows for the parts. -/

namespace Sys2Proof.Machine

/-! ### One gram to the first of the largest remainders -/

theorem le_topRemainder {xs : List (Nat × Nat)} {x : Nat × Nat} (h : x ∈ xs) : x.2 ≤ topRemainder xs := by
  induction xs with
  | nil => exact absurd h List.not_mem_nil
  | cons y ys ih =>
    rcases List.mem_cons.mp h with rfl | hmem
    · exact Nat.le_max_left _ _
    · exact (ih hmem).trans (Nat.le_max_right _ _)

/-- The gram goes to one entry, ahead of which no entry has the remainder sought, and spends that entry's remainder. -/
theorem giveFirst_eq_set {m : Nat} {xs : List (Nat × Nat)} (h : ∃ x ∈ xs, x.2 = m) :
    ∃ (k p : Nat), xs[k]? = some (p, m) ∧ (∀ (j : Nat) (x : Nat × Nat), j < k → xs[j]? = some x → x.2 ≠ m) ∧
      giveFirst m xs = xs.set k (p + 1, 0) := by
  induction xs with
  | nil => simp at h
  | cons x xs ih =>
    obtain ⟨p, r⟩ := x
    by_cases hr : r = m
    · exact ⟨0, p, by simp [hr], by simp, by simp [giveFirst, hr]⟩
    · obtain ⟨k, q, hk, hfirst, hset⟩ := ih (by simpa [hr] using h)
      refine ⟨k + 1, q, hk, fun j y hjk hy => ?_, by simp [giveFirst, hr, hset]⟩
      cases j with
      | zero =>
        obtain rfl : (p, r) = y := by simpa using hy
        exact hr
      | succ j => exact hfirst j y (Nat.lt_of_succ_lt_succ hjk) hy

/-! ### The grams placed -/

/-- R155's placing of `n` grams over entries of part and remainder: `extra` marks the entries that receive one gram each,
those of the largest remainders, the earlier entry first among equals, and none of them without a remainder. -/
structure GramsPlaced (n : Nat) (xs : List (Nat × Nat)) (extra : List Bool) : Prop where
  length_eq : extra.length = xs.length
  count_eq : extra.count true = n
  remainder_pos : ∀ (i : Nat) (x : Nat × Nat), xs[i]? = some x → extra[i]? = some true → 0 < x.2
  largest_first : ∀ (i j : Nat) (x y : Nat × Nat), xs[i]? = some x → xs[j]? = some y → extra[i]? = some true →
    extra[j]? = some false → y.2 < x.2 ∨ (y.2 = x.2 ∧ i < j)

namespace GramsPlaced

variable {n : Nat} {xs : List (Nat × Nat)} {extra : List Bool}

theorem zero (xs : List (Nat × Nat)) : GramsPlaced 0 xs (List.replicate xs.length false) where
  length_eq := List.length_replicate
  count_eq := List.count_replicate
  remainder_pos := by simp [List.getElem?_replicate]
  largest_first := by simp [List.getElem?_replicate]

/-- Each entry is marked one way or the other. -/
theorem exists_mark (h : GramsPlaced n xs extra) {i : Nat} {x : Nat × Nat} (hx : xs[i]? = some x) :
    ∃ b, extra[i]? = some b := by
  have hlt : i < extra.length := h.length_eq ▸ (List.getElem?_eq_some_iff.mp hx).1
  exact ⟨extra[i], List.getElem?_eq_getElem hlt⟩

/-- An entry without a remainder receives no gram. -/
theorem mark_eq_false (h : GramsPlaced n xs extra) {i p : Nat} (hx : xs[i]? = some (p, 0)) : extra[i]? = some false := by
  obtain ⟨b, hb⟩ := h.exists_mark hx
  cases b with
  | false => exact hb
  | true => exact absurd (h.remainder_pos i _ hx hb) (Nat.lt_irrefl 0)

/-- A gram on the first of the largest remainders, ahead of the grams placed once that remainder is spent. -/
theorem place_first {k p m : Nat} (hk : xs[k]? = some (p, m)) (hm : 0 < m) (hmax : ∀ x ∈ xs, x.2 ≤ m)
    (hfirst : ∀ (j : Nat) (x : Nat × Nat), j < k → xs[j]? = some x → x.2 ≠ m) (h : GramsPlaced n (xs.set k (p + 1, 0)) extra) :
    GramsPlaced (n + 1) xs (extra.set k true) := by
  have hlt : k < xs.length := (List.getElem?_eq_some_iff.mp hk).1
  have hlen : extra.length = xs.length := by simpa using h.length_eq
  have hspent : extra[k]? = some false := h.mark_eq_false (p := p + 1) (by simp [hlt])
  have hother : ∀ i, k ≠ i → (xs.set k (p + 1, 0))[i]? = xs[i]? ∧ (extra.set k true)[i]? = extra[i]? := fun i hi =>
    ⟨List.getElem?_set_ne hi, List.getElem?_set_ne hi⟩
  refine ⟨by simpa using hlen, ?count, fun i x hx hi => ?pos, fun i j x y hx hy hi hj => ?order⟩
  case count =>
    obtain ⟨hkx, hfalse⟩ := List.getElem?_eq_some_iff.mp hspent
    rw [List.count_set hkx, h.count_eq, hfalse]
    rfl
  case pos =>
    by_cases hik : k = i
    · subst hik
      obtain rfl : (p, m) = x := Option.some.inj (hk.symm.trans hx)
      exact hm
    · obtain ⟨hxs, hex⟩ := hother i hik
      exact h.remainder_pos i x (hxs.trans hx) (hex.symm.trans hi)
  case order =>
    have hjk : k ≠ j := by
      rintro rfl
      simp [hlen, hlt] at hj
    obtain ⟨hys, hey⟩ := hother j hjk
    by_cases hik : k = i
    · subst hik
      obtain rfl : (p, m) = x := Option.some.inj (hk.symm.trans hx)
      rcases Nat.lt_or_eq_of_le (hmax y (List.mem_of_getElem? hy)) with hless | hequal
      · exact .inl hless
      · have hnot : ¬ j < k := fun hlt => hfirst j y hlt hy hequal
        exact .inr ⟨hequal, by omega⟩
    · obtain ⟨hxs, hex⟩ := hother i hik
      exact h.largest_first i j x y (hxs.trans hx) (hys.trans hy) (hex.symm.trans hi) (hey.symm.trans hj)

end GramsPlaced

/-- No more grams than entries with a remainder: R155's placing, and each entry's part with its gram or without. -/
theorem giveGrams_places (n : Nat) (xs : List (Nat × Nat)) (hn : n ≤ left xs) :
    ∃ extra, GramsPlaced n xs extra ∧ ∀ (i : Nat) (x : Nat × Nat), xs[i]? = some x →
      ((giveGrams n xs).map Prod.fst)[i]? = some (x.1 + if extra[i]? = some true then 1 else 0) := by
  induction n generalizing xs with
  | zero => exact ⟨_, .zero xs, fun i x hx => by simp [giveGrams, hx, List.getElem?_replicate]⟩
  | succ n ih =>
    have hleft : 0 < left xs := by omega
    have hpos := topRemainder_pos xs hleft
    have htop : ∃ x ∈ xs, x.2 = topRemainder xs := topRemainder_mem xs (by rintro rfl; simp [left] at hleft)
    have hspent := giveFirst_left _ hpos xs htop
    obtain ⟨k, p, hk, hfirst, hset⟩ := giveFirst_eq_set htop
    obtain ⟨extra, hplaced, hparts⟩ := ih (giveFirst (topRemainder xs) xs) (by omega)
    rw [hset] at hplaced
    refine ⟨extra.set k true, .place_first hk hpos (fun _ => le_topRemainder) hfirst hplaced, fun i x hx => ?_⟩
    rw [giveGrams]
    have hlt : k < xs.length := (List.getElem?_eq_some_iff.mp hk).1
    by_cases hik : k = i
    · subst hik
      obtain rfl : (p, topRemainder xs) = x := Option.some.inj (hk.symm.trans hx)
      have hkx : (xs.set k (p + 1, 0))[k]? = some (p + 1, 0) := by simp [hlt]
      have hlen : extra.length = xs.length := by simpa using hplaced.length_eq
      rw [hparts k _ (hset ▸ hkx), hplaced.mark_eq_false hkx]
      simp [hlen, hlt]
    · rw [hparts i x (by rw [hset, List.getElem?_set_ne hik, hx]), List.getElem?_set_ne hik]

/-! ### Bases, remainders and the shortfall -/

/-- The grams that the bases leave over (R155, step 4). -/
def shortfall (total : Nat) (ws : List Nat) : Nat := total - (ws.map (fun a => total * a / ws.sum)).sum

@[simp] theorem splitBases_fst (total a : Nat) (ws : List Nat) :
    (splitBases total a ws).map Prod.fst = ws.map (fun w => total * w / a) := by
  simp [splitBases, Function.comp_def]

@[simp] theorem splitBases_snd (total a : Nat) (ws : List Nat) :
    (splitBases total a ws).map Prod.snd = ws.map (fun w => total * w % a) := by
  simp [splitBases, Function.comp_def]

theorem splitBases_getElem? (total sum : Nat) {ws : List Nat} {i a : Nat} (h : ws[i]? = some a) :
    (splitBases total sum ws)[i]? = some (total * a / sum, total * a % sum) := by
  simp [splitBases, h]

/-- The remainders make up the shortfall. -/
theorem remainders_sum (total : Nat) (ws : List Nat) :
    (ws.map (fun a => total * a % ws.sum)).sum = shortfall total ws * ws.sum := by
  have htotal := splitBases_total total ws.sum ws
  rw [splitBases_fst, splitBases_snd] at htotal
  rw [shortfall, Nat.sub_mul, ← htotal, Nat.mul_comm ws.sum, Nat.add_sub_cancel_left]

/-- There is an entry with a remainder for each gram of the shortfall. -/
theorem shortfall_le_left (total : Nat) {ws : List Nat} (h : ws.sum ≠ 0) :
    shortfall total ws ≤ left (splitBases total ws.sum ws) := by
  have hpos : 0 < ws.sum := Nat.pos_of_ne_zero h
  have hrem : ∀ x ∈ splitBases total ws.sum ws, x.2 < ws.sum := by
    intro x hx
    obtain ⟨w, -, rfl⟩ := List.mem_map.mp hx
    exact Nat.mod_lt _ hpos
  have hbound := left_bound ws.sum _ hrem
  rw [splitBases_snd, remainders_sum total ws, Nat.mul_comm] at hbound
  exact Nat.le_of_mul_le_mul_left hbound hpos

theorem split_eq_none {total : Nat} {ws : List Nat} (h : ws.sum = 0) : split total ws = none := if_pos h

theorem split_eq_some {total : Nat} {ws : List Nat} (h : ws.sum ≠ 0) :
    split total ws = some ((giveGrams (shortfall total ws) (splitBases total ws.sum ws)).map Prod.fst) := by
  simp [split, h, shortfall]

theorem sum_ne_zero_of_split {total : Nat} {ws parts : List Nat} (h : split total ws = some parts) : ws.sum ≠ 0 := by
  intro hzero
  rw [split_eq_none hzero] at h
  cases h

/-- The split is R155's: the shortfall placed over the bases. -/
theorem split_places {total : Nat} {ws parts : List Nat} (h : split total ws = some parts) :
    ∃ extra, GramsPlaced (shortfall total ws) (splitBases total ws.sum ws) extra ∧
      ∀ (i a : Nat), ws[i]? = some a →
        parts[i]? = some (total * a / ws.sum + if extra[i]? = some true then 1 else 0) := by
  have hsum := sum_ne_zero_of_split h
  rw [split_eq_some hsum, Option.some.injEq] at h
  obtain ⟨extra, hplaced, hparts⟩ := giveGrams_places _ _ (shortfall_le_left total hsum)
  exact ⟨extra, hplaced, fun i a ha => h ▸ hparts i _ (splitBases_getElem? total ws.sum ha)⟩

/-- A weight of 0 has the part 0 (R156). -/
theorem split_weight_zero {total i : Nat} {ws parts : List Nat} (h : split total ws = some parts)
    (hi : ws[i]? = some 0) : parts[i]? = some 0 := by
  obtain ⟨extra, hplaced, hparts⟩ := split_places h
  have hbase := splitBases_getElem? total ws.sum hi
  simp only [Nat.mul_zero, Nat.zero_div, Nat.zero_mod] at hbase
  simp [hparts i 0 hi, hplaced.mark_eq_false hbase]

/-- No part passes its weight when the total does not pass the sum of the weights (R156). -/
theorem split_part_le {total i a p : Nat} {ws parts : List Nat} (h : split total ws = some parts)
    (hle : total ≤ ws.sum) (ha : ws[i]? = some a) (hp : parts[i]? = some p) : p ≤ a := by
  obtain ⟨hi, rfl⟩ := List.getElem?_eq_some_iff.mp ha
  obtain ⟨hj, rfl⟩ := List.getElem?_eq_some_iff.mp hp
  exact (split_le h hle).get hj hi

/-! ### The order of the list -/

/-- The entries with a remainder above `r`. -/
def remaindersAbove (r : Nat) (xs : List (Nat × Nat)) : Nat := xs.countP (fun x => decide (r < x.2))

theorem countP_lt_countP_of_imp {α : Type} {p q : α → Bool} {xs : List α} {x : α} (hpq : ∀ y ∈ xs, p y → q y)
    (hx : x ∈ xs) (hp : p x = false) (hq : q x = true) : xs.countP p < xs.countP q := by
  have hboth : (xs.filter p).countP q = xs.countP p := by
    rw [List.countP_filter]
    exact List.countP_congr (fun y hy => by simpa using hpq y hy)
  have hrest : 0 < (xs.filter (fun y => !p y)).countP q :=
    List.countP_pos_iff.mpr ⟨x, List.mem_filter.mpr ⟨hx, by simp [hp]⟩, hq⟩
  rw [List.countP_eq_countP_filter_add xs q p, hboth]
  omega

namespace GramsPlaced

variable {n : Nat} {xs : List (Nat × Nat)} {extra : List Bool}

theorem countP_zip_mark (h : GramsPlaced n xs extra) : (xs.zip extra).countP (fun z => z.2) = n := by
  have hsnd := List.map_snd_zip (l₁ := xs) (l₂ := extra) h.length_eq.le
  rw [← h.count_eq, List.count_eq_countP, ← hsnd, List.countP_map, hsnd]
  exact List.countP_congr (fun z _ => by simp)

theorem countP_zip_above (h : GramsPlaced n xs extra) (r : Nat) :
    (xs.zip extra).countP (fun z => decide (r < z.1.2)) = remaindersAbove r xs := by
  have hfst := List.map_fst_zip (l₁ := xs) (l₂ := extra) h.length_eq.ge
  rw [remaindersAbove, ← hfst, List.countP_map, hfst]
  rfl

/-- An entry whose remainder no other entry has receives a gram exactly when fewer entries are ahead of it than there are
grams: its place in the list does not count. -/
theorem mark_iff (h : GramsPlaced n xs extra) {i : Nat} {x : Nat × Nat} (hx : xs[i]? = some x)
    (halone : ∀ (j : Nat) (y : Nat × Nat), xs[j]? = some y → y.2 = x.2 → j = i) :
    extra[i]? = some true ↔ remaindersAbove x.2 xs < n := by
  rw [← h.countP_zip_mark, ← h.countP_zip_above]
  obtain ⟨b, hb⟩ := h.exists_mark hx
  have hmem : (x, b) ∈ xs.zip extra := List.mem_of_getElem? (List.getElem?_zip_eq_some.mpr ⟨hx, hb⟩)
  cases b with
  | true =>
    refine iff_of_true hb (countP_lt_countP_of_imp (fun z hz habove => ?_) hmem (by simp) rfl)
    obtain ⟨j, hj⟩ := List.mem_iff_getElem?.mp hz
    obtain ⟨hy, hm⟩ := List.getElem?_zip_eq_some.mp hj
    by_contra hunmarked
    rw [Bool.not_eq_true] at hunmarked
    have horder := h.largest_first i j x z.1 hx hy hb (hunmarked ▸ hm)
    have hless := of_decide_eq_true habove
    omega
  | false =>
    refine iff_of_false (by simp [hb]) (Nat.not_lt.mpr (List.countP_mono_left (fun z hz hmarked => ?_)))
    obtain ⟨j, hj⟩ := List.mem_iff_getElem?.mp hz
    obtain ⟨hy, hm⟩ := List.getElem?_zip_eq_some.mp hj
    rcases h.largest_first j i z.1 x hy hx (hmarked ▸ hm) hb with hless | ⟨hequal, hji⟩
    · exact decide_eq_true hless
    · have hji' := halone j z.1 hy hequal.symm
      omega

end GramsPlaced

theorem eq_of_count_eq_one {ws : List Nat} {i j a : Nat} (h : ws.count a = 1) (hi : ws[i]? = some a)
    (hj : ws[j]? = some a) : j = i := by
  obtain ⟨hi, ha⟩ := List.getElem?_eq_some_iff.mp hi
  obtain ⟨hj, hb⟩ := List.getElem?_eq_some_iff.mp hj
  by_contra hne
  have hdup : List.Duplicate a ws := by
    rw [List.duplicate_iff_exists_distinct_get]
    rcases Nat.lt_or_gt_of_ne hne with hlt | hgt
    · exact ⟨⟨j, hj⟩, ⟨i, hi⟩, hlt, hb.symm, ha.symm⟩
    · exact ⟨⟨i, hi⟩, ⟨j, hj⟩, hgt, ha.symm, hb.symm⟩
  have htwice := List.duplicate_iff_two_le_count.mp hdup
  omega

/-- The part of an entry whose remainder no other entry has (R156), in words that leave out its place in the list. -/
theorem split_part_of_remainder_alone {total i a : Nat} {ws parts : List Nat} (h : split total ws = some parts)
    (ha : ws[i]? = some a) (hcount : ws.count a = 1)
    (halone : ∀ b ∈ ws, total * b % ws.sum = total * a % ws.sum → b = a) :
    parts[i]? = some (total * a / ws.sum +
      if remaindersAbove (total * a % ws.sum) (splitBases total ws.sum ws) < shortfall total ws then 1 else 0) := by
  obtain ⟨extra, hplaced, hparts⟩ := split_places h
  have hmark := hplaced.mark_iff (splitBases_getElem? total ws.sum ha) (fun j y hy hrem => by
    obtain ⟨b, hb, rfl⟩ : ∃ b, ws[j]? = some b ∧ (total * b / ws.sum, total * b % ws.sum) = y := by
      simpa [splitBases] using hy
    exact eq_of_count_eq_one hcount ha (halone b (List.mem_of_getElem? hb) hrem ▸ hb))
  simp only [hparts i a ha, hmark]

theorem shortfall_perm (total : Nat) {ws vs : List Nat} (h : ws.Perm vs) : shortfall total ws = shortfall total vs := by
  rw [shortfall, shortfall, h.sum_eq, (h.map _).sum_eq]

theorem remaindersAbove_perm (r total sum : Nat) {ws vs : List Nat} (h : ws.Perm vs) :
    remaindersAbove r (splitBases total sum ws) = remaindersAbove r (splitBases total sum vs) :=
  (h.map _).countP_eq _

/-- Another order of the list gives an entry the same part where no other remainder equals its (R156). -/
theorem split_part_perm {total i j a : Nat} {ws vs parts others : List Nat} (h : split total ws = some parts)
    (hperm : ws.Perm vs) (h' : split total vs = some others) (hi : ws[i]? = some a) (hj : vs[j]? = some a)
    (hcount : ws.count a = 1) (halone : ∀ b ∈ ws, total * b % ws.sum = total * a % ws.sum → b = a) :
    parts[i]? = others[j]? := by
  rw [split_part_of_remainder_alone h hi hcount halone,
    split_part_of_remainder_alone h' hj ((hperm.count_eq a).symm.trans hcount)
      (fun b hb => hperm.sum_eq ▸ halone b (hperm.mem_iff.mpr hb)),
    ← hperm.sum_eq, shortfall_perm total hperm, remaindersAbove_perm _ total _ hperm]

/-- Settles O14: R155's placing of the shortfall is what the model's split does, by induction on the grams placed; R156's
clauses follow from it, the one on the order by counting the remainders above an entry's. -/
theorem splitByLargestRemainder : Obligations.SplitByLargestRemainder := by
  refine ⟨fun total ws htotal hws => ⟨split_eq_none, fun hsum => ?_⟩, fun total ws parts h =>
    ⟨split_sum h, fun i hi => split_weight_zero h hi, fun hle i a p => split_part_le h hle, fun vs others hperm h' i j a =>
      split_part_perm h hperm h'⟩⟩
  have hsplit := split_eq_some (total := total) hsum
  obtain ⟨extra, hplaced, hparts⟩ := split_places hsplit
  have hproduct : ∀ a ∈ ws, total * a < 2 ^ 64 := fun a ha =>
    (Nat.mul_lt_mul'' htotal (hws a ha)).trans_eq (by norm_num)
  refine ⟨_, extra, hsplit, split_length hsplit, by simpa [splitBases] using hplaced.length_eq,
    fun i a ha => ⟨hproduct a (List.mem_of_getElem? ha), hparts i a ha⟩, hplaced.count_eq, remainders_sum total ws,
    fun i a ha hi => ?_, fun i j a b ha hb => ?_⟩
  · exact hplaced.remainder_pos i _ (splitBases_getElem? total ws.sum ha) hi
  · exact hplaced.largest_first i j _ _ (splitBases_getElem? total ws.sum ha) (splitBases_getElem? total ws.sum hb)

end Sys2Proof.Machine
end

section
/-! Rounding half up (R150), the moisture of a bale (R159) and the settlement mass (R161). -/

namespace Sys2Proof.Machine

/-! ### Rounding half up -/

/-- The quotient rounded half up lies within half a divisor of the exact one, the half itself rounded up (R150). -/
theorem roundHalfUp_bounds (n : Nat) {d : Nat} (hd : 0 < d) :
    2 * roundHalfUp n d * d ≤ 2 * n + d ∧ 2 * n + d < 2 * (roundHalfUp n d + 1) * d := by
  have hdiv : n / d * d + n % d = n := Nat.div_add_mod' n d
  have hrem : n % d < d := Nat.mod_lt n hd
  unfold roundHalfUp
  simp only [Nat.mul_assoc, Nat.add_mul, Nat.one_mul]
  split
  case isTrue hraised =>
    rw [Nat.add_mul, Nat.one_mul]
    omega
  case isFalse hlowered => omega

/-- A sum of at most 999 for each unit of the divisor rounds to at most 999. -/
theorem roundHalfUp_le_999 {n d : Nat} (hd : 0 < d) (h : n ≤ 999 * d) : roundHalfUp n d ≤ 999 := by
  obtain ⟨hlow, -⟩ := roundHalfUp_bounds n hd
  by_contra hover
  have : 1000 * d ≤ roundHalfUp n d * d := Nat.mul_le_mul_right d (by omega)
  nlinarith

/-! ### The bale's moisture -/

/-- The two draws take no more than the bale's net mass (R113). -/
theorem draws_sum_le (b : Nat) (ls : List Layer) : (draws b ls).1 + (draws b ls).2 ≤ b := by
  match ls with
  | [] => exact Nat.zero_le b
  | [l] =>
    simp only [draws]
    split <;> simp
  | l :: m :: _ =>
    simp only [draws]
    split
    · split
      · omega
      · simp
    · simp

/-- A bound on every layer's moisture holds of the moisture at any place of the list, 0 where there is no layer. -/
theorem moistureAt_le {ls : List Layer} {bound : Nat} (h : ∀ l ∈ ls, l.moisture ≤ bound) (i : Nat) :
    moistureAt ls i ≤ bound := by
  unfold moistureAt
  cases hl : ls[i]? with
  | none => exact Nat.zero_le bound
  | some l => exact h l (List.mem_of_getElem? hl)

/-- R159's weighted sum: each draw at its layer's moisture, the excess at that of the last layer drawn from. -/
def weightedMoisture (d1 m1 d2 m2 excess : Nat) : Nat := d1 * m1 + d2 * m2 + excess * (if 0 < d2 then m2 else m1)

theorem weightedMoisture_le {m1 m2 bound : Nat} (h1 : m1 ≤ bound) (h2 : m2 ≤ bound) (d1 d2 excess : Nat) :
    weightedMoisture d1 m1 d2 m2 excess ≤ bound * (d1 + d2 + excess) := by
  have hlast : (if 0 < d2 then m2 else m1) ≤ bound := by split <;> assumption
  calc weightedMoisture d1 m1 d2 m2 excess
      ≤ d1 * bound + d2 * bound + excess * bound := by
        unfold weightedMoisture; gcongr
    _ = bound * (d1 + d2 + excess) := by ring

/-- With no draw the bale has the reference moisture (R159). -/
theorem baleMoisture_of_no_draw {d1 d2 : Nat} (h : d1 = 0 ∧ d2 = 0) (m1 m2 excess reference : Nat) :
    baleMoisture d1 m1 d2 m2 excess reference = reference := if_pos h

/-- With a draw the bale's moisture is the weighted sum over the mass, rounded half up (R159). -/
theorem baleMoisture_of_draw {d1 d2 : Nat} (h : ¬ (d1 = 0 ∧ d2 = 0)) (m1 m2 excess reference : Nat) :
    baleMoisture d1 m1 d2 m2 excess reference =
      roundHalfUp (weightedMoisture d1 m1 d2 m2 excess) (d1 + d2 + excess) := if_neg h

/-! ### The settlement mass -/

/-- A built ticket's settlement mass is the rounded quotient, held at the top of its field (R150, R161). -/
theorem builtTicket_settlementGrams (e : WaitEntry) (l : Lot) (s : State) :
    (builtTicket e l s).header.settlementGrams = min (roundHalfUp l.drySum (1000 - s.mgu.config.reference)) 4294967295 := rfl

/-- Settles O15: the draws and the excess make up the net mass, so the bounds of rounding half up give the moisture's; the
settlement mass has the same bounds over a divisor from 850 to 950. -/
theorem moistureOfABaleAndSettlementMass : Obligations.MoistureOfABaleAndSettlementMass := by
  refine ⟨fun gross unsettled s => ?moisture, fun e l s hlow hhigh => ?settlement, by decide⟩
  case moisture =>
    intro bale d m1 m2 excess sum
    have hnet : d.1 + d.2 + excess = bale.net := by
      have : d.1 + d.2 ≤ bale.net := draws_sum_le bale.net s.cfl.layers
      omega
    have hround : ¬ (d.1 = 0 ∧ d.2 = 0) → bale.moisture = roundHalfUp sum bale.net := fun hdraw =>
      hnet ▸ baleMoisture_of_draw hdraw m1 m2 excess s.mgu.config.reference
    have hpos : ¬ (d.1 = 0 ∧ d.2 = 0) → 0 < bale.net := by omega
    refine ⟨fun hnone => baleMoisture_of_no_draw hnone m1 m2 excess s.mgu.config.reference, fun hdraw => ?_, fun hlayers => ?_⟩
    · rw [hround hdraw]
      exact roundHalfUp_bounds sum (hpos hdraw)
    · have hsum : sum ≤ 999 * bale.net :=
        hnet ▸ weightedMoisture_le (moistureAt_le hlayers 0) (moistureAt_le hlayers 1) d.1 d.2 excess
      exact ⟨hsum, fun hdraw => hround hdraw ▸ roundHalfUp_le_999 (hpos hdraw) hsum⟩
  case settlement =>
    obtain ⟨hquotientLow, hquotientHigh⟩ := roundHalfUp_bounds l.drySum (d := 1000 - s.mgu.config.reference) (by omega)
    exact ⟨by omega, by omega, _, hquotientLow, hquotientHigh, builtTicket_settlementGrams e l s⟩

end Sys2Proof.Machine
end

section
/-! What every command keeps: one line for each row, from the lemmas on the row's operations. -/

namespace Sys2Proof.Machine

/-- A row of ring traffic that only forwards its frame. -/
theorem kept_forwards (b : Bool) (f : Frame) (s : State) : Kept s (takeFrame b f (forward f) s) :=
  kept_takeFrame b f _ (kept_forward f) s

/-- A mark taken by its reader. -/
theorem kept_mark (b : Bool) (f : Frame) (node : StationConfig → Nat) {act : State → State} (h : ∀ s, Kept s (act s)) (s : State) :
    Kept s (takeFrame b f (handleMark f node act) s) :=
  kept_takeFrame b f _ (kept_handleMark f node act h) s

/-- A RESTART frame, with the ring restart or forwarded (R166, R176). -/
theorem kept_restartFrame (f : Frame) (s : State) :
    Kept s (if bringsRestart s f then ringRestart f s else forward f s) := by
  split
  · exact kept_ringRestart f s
  · exact kept_forward f s

/-- A bad frame's row (R164). -/
theorem kept_badFrame (bytes : List Byte) (s : State) : Kept s (if frameBad bytes then startPortB (dropBad s) else s) := by
  split
  · exact (kept_dropBad s).trans (kept_startPortB _)
  · exact Kept.refl s

theorem kept_tableRead (b : Bool) (f : Frame) (lo hi : Nat) (e : State → List (List Byte)) (s : State) :
    Kept s (takeRequest b f (tableRead f lo hi e) s) :=
  kept_takeRequest b f _ (kept_readAnswer lo hi e f) s

theorem kept_statusReadRow (b : Bool) (f : Frame) (form : State → Option View) (s : State) :
    Kept s (takeRequest b f (statusRead f form) s) :=
  kept_takeRequest b f _ (kept_statusRead f form) s

/-- Every command but POWER_ON goes on, and keeps the queue behind it and the invariants of `Kept`. -/
theorem kept_exec (i : Instr) (s : State) (hpower : ∀ straps, i ≠ .powerOn straps) : ∃ t, exec i s = .next t ∧ Kept s t := by
  cases i with
  | powerOn straps => exact absurd rfl (hpower straps)
  | badFrame bytes => exact ⟨_, rfl, kept_badFrame bytes s⟩
  | ownFrameRemoved f => exact ⟨_, rfl, kept_takeFrame _ f _ Kept.refl s⟩
  | sampleFrame f => exact ⟨_, rfl, kept_takeFrame _ f _ (fun s => (kept_readSample f s).trans (kept_forward f _)) s⟩
  | hook f => exact ⟨_, rfl, kept_mark _ f _ kept_takeHook s⟩
  | hookShort f => exact ⟨_, rfl, kept_mark _ f _ kept_takeHookShort s⟩
  | chargeStart f => exact ⟨_, rfl, kept_mark _ f _ kept_takeChargeStart s⟩
  | pressCycle f => exact ⟨_, rfl, kept_mark _ f _ kept_takePressCycle s⟩
  | baleTied f => exact ⟨_, rfl, kept_mark _ f _ kept_takeBaleTied s⟩
  | unloadDone f => exact ⟨_, rfl, kept_mark _ f _ (kept_takeUnloadDone _) s⟩
  | commandFrame f => exact ⟨_, rfl, kept_takeFrame _ f _ (kept_passCommand f) s⟩
  | restart f => exact ⟨_, rfl, kept_takeFrame _ f _ (kept_restartFrame f) s⟩
  | passThroughFrame f => exact ⟨_, rfl, kept_forwards _ f s⟩
  | malformedMarkFrame f => exact ⟨_, rfl, kept_forwards _ f s⟩
  | frameBoundary => exact ⟨_, rfl, kept_frameBoundary s⟩
  | channelStaleDeadline c => exact ⟨_, rfl, kept_atDeadline _ _ (kept_channelStale c) s⟩
  | transitEntryDue => exact ⟨_, rfl, kept_atDeadline _ _ kept_takeTransit s⟩
  | evaluationExpiry k => exact ⟨_, rfl, kept_atDeadline _ _ (kept_evaluate k) s⟩
  | overdryDeadline k => exact ⟨_, rfl, kept_atDeadline _ _ (kept_overdryReached k) s⟩
  | unloadSettleDeadline => exact ⟨_, rfl, kept_atDeadline _ _ (kept_withGrant _ kept_completeUnload) s⟩
  | unloadOverrunDeadline => exact ⟨_, rfl, kept_atDeadline _ _ (kept_withGrant _ kept_unloadOverrun) s⟩
  | layerRestDue n => exact ⟨_, rfl, kept_atDeadline _ _ (kept_layerRest n) s⟩
  | pressSettleDeadline => exact ⟨_, rfl, kept_atDeadline _ _ kept_pressSettle s⟩
  | ringIdleTimeout => exact ⟨_, rfl, kept_atDeadline _ _ kept_silenceTest s⟩
  | timeOfDaySecond => exact ⟨_, rfl, kept_atDeadline _ _ kept_nextSecondOfDay s⟩
  | requestUndefined f => exact ⟨_, rfl, kept_takeRequest _ f _ (fun s => Kept.refl s) s⟩
  | tableReadChannel f | tableReadActuator f | tableReadNodeClass f | tableReadKilnSetup f | tableReadConfig f
  | tableReadRecipe f | tableReadBaleLog f => exact ⟨_, rfl, kept_tableRead _ f _ _ _ s⟩
  | tableWriteChannel f => exact ⟨_, rfl, kept_takeRequest _ f _ (kept_inWindow f _ _ _ (kept_writeChannels f)) s⟩
  | tableWriteActuator f => exact ⟨_, rfl, kept_takeRequest _ f _ (kept_inWindow f _ _ _ (kept_writeActuators f)) s⟩
  | tableWriteNodeClass f => exact ⟨_, rfl, kept_takeRequest _ f _ (kept_inWindow f _ _ _ (kept_writeNodeClasses f)) s⟩
  | tableWriteKilnSetup f => exact ⟨_, rfl, kept_takeRequest _ f _ (kept_inWindow f _ _ _ (kept_writeSetups f)) s⟩
  | tableWriteConfig f => exact ⟨_, rfl, kept_takeRequest _ f _ (kept_inWindow f _ _ _ (kept_writeConfig f)) s⟩
  | tableWriteRecipe f | tableWriteBaleLog f =>
    exact ⟨_, rfl, kept_takeRequest _ f _ (kept_inWindow f _ _ _ kept_refuseWrite) s⟩
  | statusReadDevice f | statusReadChannels f | statusReadEvents f | statusReadIntake f | statusReadLot f | statusReadFill f
  | statusReadKilns f | statusReadFloor f | statusReadPress f | statusReadBale f | statusReadTickets f | statusReadTicket f
  | statusReadLink f => exact ⟨_, rfl, kept_statusReadRow _ f _ s⟩
  | recipeBegin f => exact ⟨_, rfl, kept_takeRequest _ f _ (kept_beginRecipe f) s⟩
  | recipeStage f => exact ⟨_, rfl, kept_takeRequest _ f _ (kept_stageRecipe f) s⟩
  | recipeEnd f => exact ⟨_, rfl, kept_takeRequest _ f _ (kept_endRecipe f) s⟩
  | timeSet f => exact ⟨_, rfl, kept_takeRequest _ f _ (kept_setTime f) s⟩
  | eventEnable f => exact ⟨_, rfl, kept_takeRequest _ f _ (kept_enableEvents f) s⟩
  | eventClear f => exact ⟨_, rfl, kept_takeRequest _ f _ (kept_clearEvents f) s⟩
  | start f => exact ⟨_, rfl, kept_takeRequest _ f _ kept_startDevice s⟩
  | lotOpen f => exact ⟨_, rfl, kept_takeRequest _ f _ (kept_openLot f) s⟩
  | lotCancel f => exact ⟨_, rfl, kept_takeRequest _ f _ (kept_cancelLot f) s⟩
  | lotEnd f => exact ⟨_, rfl, kept_takeRequest _ f _ (kept_endLot f) s⟩
  | kilnStart f => exact ⟨_, rfl, kept_takeRequest _ f _ (kept_forKiln f _ kept_startKiln) s⟩
  | kilnHold f => exact ⟨_, rfl, kept_takeRequest _ f _ (kept_forKiln f _ kept_holdRequest) s⟩
  | kilnResume f => exact ⟨_, rfl, kept_takeRequest _ f _ (kept_forKiln f _ kept_resumeRequest) s⟩
  | kilnForceEnd f => exact ⟨_, rfl, kept_takeRequest _ f _ (kept_forKiln f _ kept_forceEnd) s⟩
  | kilnFillClose f => exact ⟨_, rfl, kept_takeRequest _ f _ (kept_forKiln f _ kept_closeFill) s⟩
  | kilnClear f => exact ⟨_, rfl, kept_takeRequest _ f _ (kept_forKiln f _ kept_clearKiln) s⟩
  | kilnRecipe f => exact ⟨_, rfl, kept_takeRequest _ f _ (kept_forKiln f _ (kept_recipeRequest f)) s⟩
  | floorClear f => exact ⟨_, rfl, kept_takeRequest _ f _ kept_clearFloorRequest s⟩
  | pressAbort f => exact ⟨_, rfl, kept_takeRequest _ f _ kept_abortPress s⟩
  | ticketCreditAdd f => exact ⟨_, rfl, kept_takeRequest _ f _ (kept_addCredits f) s⟩
  | ticketCreditSet f => exact ⟨_, rfl, kept_takeRequest _ f _ (kept_setCreditsRequest f) s⟩
  | ticketStop f => exact ⟨_, rfl, kept_takeRequest _ f _ kept_stopTickets s⟩
  | ticketRun f => exact ⟨_, rfl, kept_takeRequest _ f _ kept_runTickets s⟩
  | ticketRewind f => exact ⟨_, rfl, kept_takeRequest _ f _ kept_rewindTickets s⟩
  | ticketRelease f => exact ⟨_, rfl, kept_takeRequest _ f _ (kept_releaseTicket f) s⟩

/-- A command is POWER_ON or another. -/
theorem powerOn_or (i : Instr) : (∃ straps, i = .powerOn straps) ∨ ∀ straps, i ≠ .powerOn straps := by
  by_cases h : ∃ straps, i = .powerOn straps
  · exact .inl h
  · exact .inr fun straps he => h ⟨straps, he⟩

/-- What a command but POWER_ON has kept, from where it led. -/
theorem Kept.of_exec {i : Instr} {s t : State} (hpower : ∀ straps, i ≠ .powerOn straps) (h : exec i s = .next t) : Kept s t := by
  obtain ⟨u, hu, hkept⟩ := kept_exec i s hpower
  obtain rfl : t = u := Host.Outcome.next.inj (h.symm.trans hu)
  exact hkept

/-- Settles O3: POWER_ON keeps the queue by its definition, every other command by `kept_exec`. -/
theorem everyCommandGoesOnAndLeavesTheQueue : Obligations.EveryCommandGoesOnAndLeavesTheQueue := by
  intro i s
  obtain ⟨straps, rfl⟩ | hpower := powerOn_or i
  · exact ⟨_, exec_powerOn straps s, rfl⟩
  · obtain ⟨t, ht, hpending, -⟩ := kept_exec i s hpower
    exact ⟨t, ht, hpending⟩

/-! ### The invariants at power-on -/

/-- The state that POWER_ON leads to, with the queue and the model's own fields that it keeps. -/
def poweredOn (straps : BitVec 7) (s : State) : State :=
  { State.powerOn straps with pending := s.pending, sched := s.sched, freeCount := s.freeCount }

theorem linkInv_powerOn (straps : BitVec 7) (s : State) : LinkInv (poweredOn straps s) :=
  ⟨⟨Nat.zero_le _, Nat.zero_le _, Nat.zero_le _, Nat.zero_le _, nofun⟩, fun _ hc => (List.not_mem_nil hc).elim, List.nodup_nil⟩

theorem countsInv_powerOn (straps : BitVec 7) (s : State) : CountsInv (poweredOn straps s) :=
  ⟨fun e he => by simp [(Mgu.powerOn_events_clear e he).2], Nat.zero_le _⟩

theorem floorInv_powerOn (straps : BitVec 7) (s : State) : FloorInv (poweredOn straps s) :=
  fun _ hl => (List.not_mem_nil hl).elim

theorem roomInv_powerOn (straps : BitVec 7) (s : State) : RoomInv (poweredOn straps s) :=
  ⟨Nat.zero_le _, Nat.zero_le _, List.nodup_nil, nofun⟩

theorem ticketsInv_powerOn (straps : BitVec 7) (s : State) : TicketsInv (poweredOn straps s) :=
  ⟨Nat.zero_le _, Nat.zero_le _, List.nodup_nil⟩

/-- Every kiln is EMPTY at power-on (R87). -/
theorem kilns_powerOn (straps : BitVec 7) (s : State) (k : Fin 4) : (poweredOn straps s).kilns.get k = Kiln.powerOn :=
  Tab.get_fill _ k

theorem fillingInv_powerOn (straps : BitVec 7) (s : State) : FillingInv (poweredOn straps s) := by
  intro j k hj
  rw [kilns_powerOn] at hj
  cases hj

/-! ### From commands to steps -/

/-- An idle step changes the queue, the schedule and the clock at most. -/
theorem idle_spec (s : State) : ∃ p c n, idle s = { s with pending := p, sched := c, clock := n } := by
  unfold idle
  split
  · exact ⟨_, _, _, rfl⟩
  · rw [takeChoice_eq]
    exact ⟨_, _, _, rfl⟩

/-- An invariant that queue, schedule and clock do not touch, that holds at power-on and that every other command keeps is
kept by every step. -/
theorem step_keeps {P : State → Prop} (hfree : ∀ s p c n, P s → P { s with pending := p, sched := c, clock := n })
    (hpowerOn : ∀ straps s, P (poweredOn straps s))
    (hexec : ∀ i s t, (∀ straps, i ≠ .powerOn straps) → exec i s = .next t → P s → P t) {s t : State} (hs : P s)
    (h : step s = .next t) : P t := by
  unfold step at h
  split at h
  · obtain ⟨p, c, n, he⟩ := idle_spec s
    cases h
    exact he ▸ hfree s p c n hs
  · rename_i i rest _
    obtain ⟨straps, rfl⟩ | hpower := powerOn_or i
    · cases h
      exact hpowerOn straps { s with pending := rest }
    · exact hexec i _ t hpower h (hfree s rest s.sched s.clock hs)

/-- Settles O8: by `step_keeps`, from what every operation keeps. -/
theorem everyStepKeepsTheLinkAndTheCounts : Obligations.EveryStepKeepsTheLinkAndTheCounts := by
  refine ⟨fun s t => step_keeps (P := LinkInv) (fun _ _ _ _ h => h) linkInv_powerOn fun i s t hpower h hs => ?link,
    fun s t => step_keeps (P := CountsInv) (fun _ _ _ _ h => h) countsInv_powerOn fun i s t hpower h hs => ?counts⟩
  case link =>
    obtain ⟨-, hlink, -⟩ := Kept.of_exec hpower h
    exact hlink hs
  case counts =>
    obtain ⟨-, -, -, hcounts, -⟩ := Kept.of_exec hpower h
    exact hcounts hs

/-- Settles O9: by `step_keeps`, from what every operation keeps. -/
theorem everyStepKeepsTheFloor : Obligations.EveryStepKeepsTheFloor := by
  intro s t hstep
  refine ⟨fun hs => step_keeps (P := FloorInv) (fun _ _ _ _ h => h) floorInv_powerOn (fun i s t hpower h hs => ?floor) hs hstep,
    fun hs => step_keeps (P := RoomInv) (fun _ _ _ _ h => h) roomInv_powerOn (fun i s t hpower h hs => ?room) hs hstep⟩
  case floor =>
    obtain ⟨-, -, hfloor, -⟩ := Kept.of_exec hpower h
    exact hfloor hs
  case room =>
    obtain ⟨-, -, -, -, hroom⟩ := Kept.of_exec hpower h
    exact hroom hs

/-! ### The queue, the clock and power-on -/

/-- Settles O1: by the definition of a step. -/
theorem stepRunsTheFrontCommand : Obligations.StepRunsTheFrontCommand := by
  intro s c rest hqueue
  simp [step, hqueue]

/-- Settles O2: the choice of a step among the due deadlines is an element of their list. -/
theorem idleStepTicksOrQueuesADueDeadline : Obligations.IdleStepTicksOrQueuesADueDeadline := by
  intro s hqueue
  have hstep : step s = .next (idle s) := by simp [step, hqueue]
  rw [hstep]
  unfold idle
  cases hdue : dueCommands s with
  | nil => simp
  | cons d ds =>
    refine ⟨nofun, fun _ => ?_⟩
    have hlt : (takeChoice s).1 % (d :: ds).length < (d :: ds).length := Nat.mod_lt _ (by simp)
    refine ⟨(d :: ds).getD ((takeChoice s).1 % (d :: ds).length) d, ?_, s.sched.tail, ?_⟩
    · rw [List.getD_eq_getElem _ _ hlt]
      exact List.getElem_mem hlt
    · rw [takeChoice_eq]

/-- No kiln of the state after POWER_ON is FILLING. -/
theorem fillingKiln_powerOn (straps : BitVec 7) (s : State) : fillingKiln (poweredOn straps s) = none := by
  simp only [fillingKiln, Tab.lowest?, List.find?_eq_none]
  intro k _
  rw [kilns_powerOn]
  decide

/-- Settles O4: each block's fields are read off the state that POWER_ON leads to. -/
theorem powerOnOfEveryBlock : Obligations.PowerOnOfEveryBlock := by
  refine ⟨fun straps s => ⟨poweredOn straps s, exec_powerOn straps s, ?blocks⟩,
    fun straps s => ⟨poweredOn straps s, exec_powerOn straps s, ?link⟩⟩
  case blocks =>
    exact ⟨rfl, Tab.get_fill _, rfl, Itk.powerOn_lots_get, rfl, rfl, rfl, fillingKiln_powerOn straps s, Tab.get_fill _,
      Tab.get_fill _, Tab.get_fill _, Tab.get_fill _, rfl, rfl, rfl, rfl, rfl, rfl, rfl, rfl⟩
  case link =>
    exact ⟨rfl, rfl, rfl, rfl, rfl, rfl, rfl, rfl, rfl, rfl, rfl, Tab.get_fill _, rfl, Tab.get_fill _, rfl, rfl, rfl, rfl,
      Tab.get_fill _, rfl⟩

/-- Settles O6: reset is the state after POWER_ON with the straps at 1. -/
theorem resetIsPowerOnAndTheInvariantsHold : Obligations.ResetIsPowerOnAndTheInvariantsHold := by
  have hreset : poweredOn 1 State.reset = State.reset := rfl
  refine ⟨⟨rfl, rfl, rfl, exec_powerOn 1 _⟩, ?_⟩
  rw [← hreset]
  exact ⟨linkInv_powerOn _ _, floorInv_powerOn _ _, roomInv_powerOn _ _, countsInv_powerOn _ _, ticketsInv_powerOn _ _,
    fillingInv_powerOn _ _⟩

end Sys2Proof.Machine
end

section
/-! What every operation leaves of the settings, the ticket store and the filling kiln: the settings stand but for those that a
list names, and the invariants of the ticket store (R129, R136) and of the filling kiln (R47) are kept. -/

namespace Sys2Proof.Machine

/-- A part of the state that only some commands change. -/
inductive Setting where
  | clock | address | actuators | nodeClasses | config | configValid | mode | timeValid | timeOfDay | nextSecond | reportDest
  | channels | setups | recipes | staging
  deriving DecidableEq

/-- A setting stands unchanged between two states. -/
def SameSetting (s t : State) : Setting → Prop
  | .clock       => t.clock = s.clock
  | .address     => t.rlu.address = s.rlu.address
  | .actuators   => t.actuators = s.actuators
  | .nodeClasses => t.mgu.nodeClasses = s.mgu.nodeClasses
  | .config      => t.mgu.config = s.mgu.config
  | .configValid => t.mgu.configValid = s.mgu.configValid
  | .mode        => t.mgu.mode = s.mgu.mode
  | .timeValid   => t.mgu.timeValid = s.mgu.timeValid
  | .timeOfDay   => t.mgu.timeOfDay = s.mgu.timeOfDay
  | .nextSecond  => t.mgu.nextSecond = s.mgu.nextSecond
  | .reportDest  => t.mgu.reportDest = s.mgu.reportDest
  | .channels    => t.channels = s.channels
  | .setups      => t.kfr.setups = s.kfr.setups
  | .recipes     => t.rct.recipes = s.rct.recipes
  | .staging     => t.rct.staging = s.rct.staging

/-- From one state to another the settings stand but for those in `x`, and the ticket store and the filling kiln keep their
invariants. -/
structure Firm (x : List Setting) (s t : State) : Prop where
  settings : ∀ a, a ∉ x → SameSetting s t a
  tickets  : TicketsInv s → TicketsInv t
  filling  : FillingInv s → FillingInv t

variable {x : List Setting}

theorem SameSetting.trans {s t u : State} {a : Setting} (h : SameSetting s t a) (k : SameSetting t u a) : SameSetting s u a := by
  cases a <;> exact Eq.trans k h

theorem Firm.refl (s : State) : Firm x s s := ⟨fun a _ => by cases a <;> rfl, id, id⟩

theorem Firm.trans {s t u : State} (h : Firm x s t) (k : Firm x t u) : Firm x s u :=
  ⟨fun a ha => (h.settings a ha).trans (k.settings a ha), k.tickets ∘ h.tickets, k.filling ∘ h.filling⟩

theorem firm_foldl {α : Type} (f : State → α → State) (h : ∀ s a, Firm x s (f s a)) (xs : List α) (s : State) :
    Firm x s (xs.foldl f s) := by
  induction xs generalizing s with
  | nil => exact .refl s
  | cons a xs ih => exact (h s a).trans (ih _)

/-- A change that leaves the ticket queue and the kilns alone keeps both invariants. -/
theorem Firm.of_apart {s t : State} (hs : ∀ a, a ∉ x → SameSetting s t a) (hq : t.tku.queue = s.tku.queue)
    (hk : t.kilns = s.kilns) : Firm x s t :=
  ⟨hs, fun h => by unfold TicketsInv; rwa [hq], fun h j k => by rw [hk]; exact h j k⟩

/-- What the postings and the updates of lot records leave alone is most settings and every kiln. -/
theorem Firm.of_posted {s t : State} (h : Posted s t) (ht : TicketsInv s → TicketsInv t) : Firm x s t where
  settings a _ := by
    cases a
    case clock => exact h.clock
    case address => exact h.address
    case actuators => exact h.actuators
    case channels => exact h.channels
    case setups => exact congrArg Kfr.setups h.kfr
    case recipes => exact congrArg Rct.recipes h.rct
    case staging => exact congrArg Rct.staging h.rct
    all_goals simp only [SameSetting]; rw [h.mgu]
  tickets := ht
  filling hs j k := by rw [h.kilns]; exact hs j k

/-- Two queues of tickets with the same contents hold as many blocks, as many tickets and the same serials. -/
theorem ticketsInv_of_contents {s t : State} (h : t.tku.queue.map ticketContents = s.tku.queue.map ticketContents) :
    TicketsInv s → TicketsInv t := by
  have hlen : t.tku.queue.length = s.tku.queue.length := by simpa using congrArg List.length h
  have hblocks : t.tku.queue.map Ticket.segments = s.tku.queue.map Ticket.segments := by
    have hmap := congrArg (List.map fun c => blocksFor c.2.2.2.length) h
    rwa [List.map_map, List.map_map] at hmap
  have hserials : t.tku.queue.map (·.serial) = s.tku.queue.map (·.serial) := by
    simpa [Function.comp_def, ticketContents] using congrArg (List.map fun c => c.1) h
  unfold TicketsInv
  rw [hlen, hblocks, hserials]
  exact id

/-- What moves the ring link only is firm. -/
theorem Firm.of_link {s t : State} (h : LinkOnly s t) : Firm x s t := by
  obtain ⟨⟨-, hkfr, hkilns, -⟩, ⟨hchannels, hactuators, hrct, hmgu⟩, ⟨-, -, -, -, hqueue⟩, ⟨-, -, hclock, haddress⟩⟩ := h
  refine ⟨fun a _ => ?_, ticketsInv_of_contents hqueue, fun hs j k => by rw [hkilns]; exact hs j k⟩
  cases a
  case clock => exact hclock
  case address => exact haddress
  case actuators => exact hactuators
  case channels => exact hchannels
  case setups => exact congrArg Kfr.setups hkfr
  case recipes => exact congrArg Rct.recipes hrct
  case staging => exact congrArg Rct.staging hrct
  all_goals simp only [SameSetting]; rw [hmgu]

/-! ### The setters -/

theorem firm_onItk (f : Itk → Itk) (s : State) : Firm x s (onItk f s) := .of_apart (fun a _ => by cases a <;> rfl) rfl rfl
theorem firm_onUar (f : Uar → Uar) (s : State) : Firm x s (onUar f s) := .of_apart (fun a _ => by cases a <;> rfl) rfl rfl
theorem firm_onCfl (f : Cfl → Cfl) (s : State) : Firm x s (onCfl f s) := .of_apart (fun a _ => by cases a <;> rfl) rfl rfl
theorem firm_onPru (f : Pru → Pru) (s : State) : Firm x s (onPru f s) := .of_apart (fun a _ => by cases a <;> rfl) rfl rfl

theorem firm_onKfr (f : Kfr → Kfr) (s : State) (h : .setups ∉ x → (f s.kfr).setups = s.kfr.setups := by exact fun _ => rfl) :
    Firm x s (onKfr f s) :=
  .of_apart (fun a ha => by
    cases a
    case setups => exact h ha
    all_goals rfl) rfl rfl

theorem firm_onRlu (f : Rlu → Rlu) (s : State) (h : (f s.rlu).address = s.rlu.address := by rfl) : Firm x s (onRlu f s) :=
  .of_link (linkOnly_onRlu f s h)

theorem firm_onTku (f : Tku → Tku) (s : State) (h : (f s.tku).queue = s.tku.queue := by rfl) : Firm x s (onTku f s) :=
  .of_apart (fun a _ => by cases a <;> rfl) h rfl

theorem firm_setLayers (ls : List Layer) (s : State) : Firm x s (setLayers ls s) := firm_onCfl _ s
theorem firm_setLoad (k : Fin 4) (r : LoadRecord) (s : State) : Firm x s (setLoad k r s) := firm_onKfr _ s
theorem firm_setLot (i : Fin 32) (r : Option Lot) (s : State) : Firm x s (setLot i r s) := firm_onItk _ s
theorem firm_modifyLot (i : Fin 32) (f : Lot → Lot) (s : State) : Firm x s (modifyLot i f s) := firm_setLot _ _ s

/-- A kiln's record changed, but not to FILLING. -/
theorem firm_modifyKiln (k : Fin 4) (f : Kiln → Kiln) (s : State)
    (h : ∀ kl, (f kl).state = .filling → kl.state = .filling := by exact fun _ h => h) : Firm x s (modifyKiln k f s) := by
  refine ⟨fun a _ => by cases a <;> rfl, id, fun hs i j hi hj => hs i j ?_ ?_⟩
  all_goals
    rw [kilns_modifyKiln] at hi hj
    by_cases hki : k = i <;> by_cases hkj : k = j <;>
      simp_all [Tab.get_modify_ne]

theorem firm_setChannels (t : Tab Channel 64) (s : State) (h : .channels ∈ x) : Firm x s (setChannels t s) :=
  .of_apart (fun a ha => by
    cases a
    case channels => exact absurd h ha
    all_goals rfl) rfl rfl

/-! ### Postings, permits, choices -/

theorem firm_inChosenOrder {α : Type} (xs : List α) (s : State) : Firm x s (inChosenOrder xs s).2 := by
  obtain ⟨order, -, h⟩ := inChosenOrder_spec xs s
  rw [h]
  exact .of_apart (fun a _ => by cases a <;> rfl) rfl rfl

theorem firm_withCounts (f : LinkCounts → LinkCounts) (s : State) : Firm x s (withCounts f s) := .of_link (linkOnly_withCounts f s)
theorem firm_postReply (r : Reply) (s : State) : Firm x s (postReply r s) := .of_link (linkOnly_postReply r s)
theorem firm_forward (f : Frame) (s : State) : Firm x s (forward f s) := .of_link (linkOnly_forward f s)
theorem firm_silenceTest (s : State) : Firm x s (silenceTest s) := .of_link (linkOnly_silenceTest s)
theorem firm_postEvent (kind : EventKind) (ctx : Context) (s : State) : Firm x s (postEvent kind ctx s) :=
  .of_link (linkOnly_postEvent kind ctx s)

theorem tku_postDiverter (s : State) : (postDiverter s).tku = s.tku := by
  unfold postDiverter; split
  · unfold postCommand; split <;> rfl
  · rfl

theorem tku_decideFeed (s : State) : (decideFeed s).tku = s.tku := by
  unfold decideFeed
  dsimp only
  split
  · split
    · rfl
    · exact tku_postEvent _ _ _
  · split
    · exact tku_postDiverter _
    · rfl

theorem firm_decideFeed (s : State) : Firm x s (decideFeed s) :=
  .of_posted (posted_decideFeed s) (by unfold TicketsInv; rw [tku_decideFeed]; exact id)

theorem firm_decidePress (s : State) : Firm x s (decidePress s) :=
  .of_posted (posted_decidePress s) (by unfold TicketsInv; rw [tku_decidePress]; exact id)

theorem firm_postDiverter (s : State) : Firm x s (postDiverter s) :=
  .of_posted (posted_postDiverter s) (by unfold TicketsInv; rw [tku_postDiverter]; exact id)

theorem firm_withdraw (s : State) : Firm x s (withdraw s) := .of_link (linkOnly_withdraw s)

theorem firm_sendTests (s : State) : Firm x s (sendTests s) :=
  .of_link ((linkOnly_exhaustedTest s).trans (linkOnly_offerTest _))

/-! ### Tickets -/

/-- The next ticket serial is no queued ticket's, as long as the queue is within its size (R130). -/
theorem nextTicketSerial_not_mem {s : State} (h : s.tku.queue.length < 65535) :
    nextTicketSerial s ∉ s.tku.queue.map (·.serial) := by
  have hlen : (s.tku.queue.map (·.serial)).length < 65535 := by simpa using h
  simpa [nextTicketSerial] using firstFree_not_mem (n := s.tku.nextSerial) hlen

/-- A ticket that the queue and the store have room for, with a serial that no queued ticket holds, may be queued (R128). -/
theorem ticketsInv_queued {s : State} (f : Tku → Tku) (t : Ticket) (hf : (f s.tku).queue = s.tku.queue ++ [t])
    (hserial : t.serial = nextTicketSerial s) (hlen : s.tku.queue.length < 32) (hroom : Ticket.segments t ≤ freeBlocks s)
    (h : TicketsInv s) : TicketsInv (onTku f s) := by
  obtain ⟨hblocks, -, hserials⟩ := h
  have hnew := nextTicketSerial_not_mem (s := s) (by omega)
  unfold freeBlocks at hroom
  simp only [TicketsInv, tku_onTku, hf, List.map_append, List.sum_append, List.length_append]
  refine ⟨by simp; omega, by simp; omega, ?_⟩
  rw [List.map_singleton, hserial]
  exact List.nodup_append.2 ⟨hserials, List.nodup_singleton _, fun a ha b hb e => hnew (List.mem_singleton.1 hb ▸ e ▸ ha)⟩

theorem queue_markComplete (i : Fin 32) (s : State) : (markComplete i s).tku.queue = s.tku.queue := by
  unfold markComplete; split
  · rfl
  · split <;> rfl

theorem queue_applyBuild (e : WaitEntry) (l : Lot) (s : State) : (applyBuild e l s).tku.queue = s.tku.queue := by
  unfold applyBuild; split
  · rfl
  · dsimp only
    split
    · rw [tku_decidePress, queue_markComplete]; rfl
    · rw [queue_markComplete]; rfl

theorem queue_requestBuilt (e : WaitEntry) (s : State) : (requestBuilt e s).tku.queue = s.tku.queue := by
  unfold requestBuilt; split <;> rfl

/-- A build for which there is room keeps the ticket store (R128 to R130). -/
theorem tickets_build {e : WaitEntry} {rest : List WaitEntry} {l : Lot} {s : State} (hlen : s.tku.queue.length < 32)
    (hroom : blocksFor l.refs.length ≤ freeBlocks s) (h : TicketsInv s) : TicketsInv (build e rest l s) := by
  unfold build
  extract_lets t s1 s2 s3
  have hsegments : Ticket.segments t = blocksFor l.refs.length := by simp [t, builtTicket, Ticket.segments]
  have h1 : TicketsInv s1 := ticketsInv_queued _ t rfl rfl hlen (hsegments ▸ hroom) h
  have h3 : (requestBuilt e s3).tku.queue = s1.tku.queue := by
    rw [queue_requestBuilt, tku_postEvent, queue_applyBuild]
  refine ticketsInv_of_contents ?_ h1
  have hsend := (linkOnly_exhaustedTest (requestBuilt e s3)).trans (linkOnly_offerTest _)
  obtain ⟨-, -, ⟨-, -, -, -, hqueue⟩, -⟩ := hsend
  rw [hqueue, h3]

theorem tickets_buildHead {s t : State} (h : buildHead s = some t) : TicketsInv s → TicketsInv t := by
  unfold buildHead at h
  split at h
  · cases h
  · split at h
    · cases h
    · split at h
      · rename_i hroom
        cases h
        exact tickets_build hroom.1 hroom.2
      · cases h

theorem tickets_buildLoop (n : Nat) (s : State) : TicketsInv s → TicketsInv (buildLoop n s) := by
  induction n generalizing s with
  | zero => exact id
  | succ n ih =>
    unfold buildLoop; split
    · exact id
    · rename_i h; exact ih _ ∘ tickets_buildHead h

theorem tku_oneOf {α : Type} (xs : List α) (s : State) : (oneOf xs s).2.tku = s.tku := by
  unfold oneOf; split
  · rfl
  · rfl
  · rw [takeChoice_eq]

theorem queue_blockedTest (s : State) : (blockedTest s).tku.queue = s.tku.queue := by
  unfold blockedTest; split
  · rfl
  · split
    · rfl
    · rw [tku_postEvent, tku_onTku, tku_oneOf]

theorem firm_buildTest (s : State) : Firm x s (buildTest s) :=
  .of_posted (posted_buildTest s) fun h => by
    unfold TicketsInv buildTest
    rw [queue_blockedTest]
    exact tickets_buildLoop _ s h

theorem firm_markComplete (i : Fin 32) (s : State) : Firm x s (markComplete i s) :=
  .of_posted (posted_markComplete i s) (by unfold TicketsInv; rw [queue_markComplete]; exact id)

theorem firm_completionTest (i : Fin 32) (s : State) : Firm x s (completionTest i s) := by
  unfold completionTest; split
  · exact .refl s
  · split
    · exact (firm_markComplete i s).trans (firm_buildTest _)
    · exact .refl s

theorem firm_updateLot (i : Fin 32) (f : Lot → Lot) (s : State) : Firm x s (updateLot i f s) := by
  unfold updateLot; split
  · exact .refl s
  · exact (firm_setLot _ _ _).trans (firm_completionTest i _)

theorem firm_updateSlot (i : Option (Fin 32)) (f : Lot → Lot) (s : State) : Firm x s (updateSlot i f s) := by
  unfold updateSlot; split
  · exact .refl s
  · exact firm_updateLot _ f s

theorem firm_partRequest (i : Fin 32) (n : Nat) (s : State) : Firm x s (partRequest i n s).1 := by
  unfold partRequest; split
  · exact .trans (firm_onTku _ _) (firm_buildTest _)
  · exact .refl s

/-! ### Unload -/

/-- A kiln moved to a state other than FILLING. -/
theorem firm_moveKiln (k : Fin 4) (st : KilnState) (s : State) (h : st ≠ .filling := by nofun) : Firm x s (moveKiln k st s) :=
  (firm_modifyKiln _ _ _ fun _ e => absurd e h).trans (firm_decideFeed _)

theorem firm_postConveyor (v : Nat) (s : State) : Firm x s (postConveyor v s) := by
  unfold postConveyor; split
  · exact .refl s
  · exact .of_link (linkOnly_postCommand _ s)

theorem firm_postPresentConveyor (s : State) : Firm x s (postPresentConveyor s) := firm_postConveyor _ s

theorem firm_grantKiln (k : Fin 4) (rest : List (Fin 4)) (s : State) : Firm x s (grantKiln k rest s) :=
  .trans (.trans (.trans (.trans (.trans (firm_onUar _ s) (firm_onCfl _ _)) (firm_decidePress _)) (firm_modifyKiln _ _ _))
    (firm_moveKiln _ _ _)) (firm_postConveyor _ _)

theorem firm_grantTest (s : State) : Firm x s (grantTest s) := by
  unfold grantTest; split
  · exact .refl s
  · split
    · exact firm_grantKiln _ _ _
    · exact .refl s

theorem firm_joinRequests (k : Fin 4) (s : State) : Firm x s (joinRequests k s) := (firm_onUar _ s).trans (firm_grantTest _)


/-! ### Kilns -/

theorem firm_postTo (s : State) (i v : Nat) : Firm x s (postTo s i v) := .of_link (linkOnly_postCommand _ s)

theorem firm_postBurner (k : Fin 4) (v : Nat) (s : State) : Firm x s (postBurner k v s) := by
  unfold postBurner; split
  · exact (firm_modifyKiln _ _ _).trans (firm_postTo _ _ _)
  · exact firm_modifyKiln _ _ _

theorem firm_postFan (k : Fin 4) (v : Nat) (s : State) : Firm x s (postFan k v s) := by
  unfold postFan; split
  · exact (firm_modifyKiln _ _ _).trans (firm_postTo _ _ _)
  · exact firm_modifyKiln _ _ _

theorem firm_postDrying (k : Fin 4) (i : Nat) (s : State) : Firm x s (postDrying k i s) :=
  (firm_postBurner _ _ _).trans (firm_postFan _ _ _)

theorem firm_postHeld (k : Fin 4) (i : Nat) (s : State) : Firm x s (postHeld k i s) :=
  (firm_postBurner _ _ _).trans (firm_postFan _ _ _)

theorem firm_postEndpoint (k : Fin 4) (s : State) : Firm x s (postEndpoint k s) :=
  (firm_postBurner _ _ _).trans (firm_postFan _ _ _)

theorem firm_holdKiln (k : Fin 4) (c : HoldCauses) (s : State) : Firm x s (holdKiln k c s) := by
  unfold holdKiln; split
  · exact (firm_moveKiln _ _ _).trans ((firm_modifyKiln _ _ _).trans ((firm_postHeld _ _ _).trans (firm_postEvent _ _ _)))
  · exact firm_modifyKiln _ _ _
  · exact .refl s

theorem firm_forEachLot (k : Fin 4) (f : Lot → Lot) (s : State) : Firm x s (forEachLot k f s) :=
  firm_foldl (fun s (c : Contribution) => updateSlot c.slot f s) (fun s c => firm_updateSlot c.slot f s) _ s

theorem firm_markSuspect (k : Fin 4) (s : State) : Firm x s (markSuspect k s) :=
  (firm_setLoad _ _ _).trans (firm_forEachLot _ _ _)

theorem firm_mismatchCheck (k : Fin 4) (s : State) : Firm x s (mismatchCheck k s) := by
  unfold mismatchCheck; split
  · split
    · exact (firm_markSuspect k s).trans (firm_postEvent _ _ _)
    · exact .refl s
  · exact (firm_markSuspect k s).trans (firm_postEvent _ _ _)

theorem firm_armTimer (k : Fin 4) (s : State) : Firm x s (armTimer k s) := firm_modifyKiln _ _ _

theorem firm_startDrying (k : Fin 4) (s : State) : Firm x s (startDrying k s) := by
  unfold startDrying
  extract_lets number copy s1 s2 s3 s4 s5
  have h : Firm x s s5 := .trans (.trans (.trans (.trans (.trans (firm_modifyKiln _ _ _) (firm_mismatchCheck _ _))
    (firm_modifyKiln _ _ _)) (firm_moveKiln _ _ _)) (firm_armTimer _ _)) (firm_postDrying _ _ _)
  split
  · exact h
  · exact h.trans (firm_holdKiln _ _ _)

theorem firm_formEstimate (k : Fin 4) (s : State) : Firm x s (formEstimate k s) := by
  unfold formEstimate; split
  · dsimp only
    split
    · split
      · exact firm_modifyKiln _ _ _
      · refine Firm.trans ?_ (firm_postEvent _ _ _)
        split
        · exact firm_modifyKiln _ _ _
        · exact (firm_modifyKiln _ _ _).trans (firm_markSuspect _ _)
    · exact firm_modifyKiln _ _ _
  · exact firm_modifyKiln _ _ _

theorem firm_enterEndpoint (k : Fin 4) (s : State) : Firm x s (enterEndpoint k s) :=
  .trans (.trans (.trans (.trans (.trans (firm_moveKiln _ _ _) (firm_modifyKiln _ _ _)) (firm_modifyKiln _ _ _))
    (firm_postEndpoint _ _)) (firm_joinRequests _ _)) (firm_postEvent _ _ _)

theorem firm_endStage (k : Fin 4) (i : Nat) (o : Bool) (s : State) : Firm x s (endStage k i o s) := by
  unfold endStage
  extract_lets s1
  have h : Firm x s s1 := by
    show Firm x s (if o = true then postEvent .stageOverrun (kilnContext k) s else s)
    split
    · exact firm_postEvent _ _ _
    · exact .refl s
  split
  · exact h.trans (.trans (.trans (firm_moveKiln _ _ _) (firm_modifyKiln _ _ _)) (firm_postDrying _ _ _))
  · exact h.trans (firm_enterEndpoint _ _)

theorem firm_evaluateDrying (k : Fin 4) (i : Nat) (s : State) : Firm x s (evaluateDrying k i s) := by
  unfold evaluateDrying
  extract_lets st e s1 s2 s3
  have h : Firm x s s3 := .trans (.trans (firm_modifyKiln _ _ _) (firm_formEstimate _ _)) (firm_modifyKiln _ _ _)
  split
  · exact h.trans (firm_endStage _ _ _ _)
  · split
    · exact h.trans (firm_endStage _ _ _ _)
    · exact h.trans (firm_postDrying _ _ _)

theorem firm_evaluate (k : Fin 4) (s : State) : Firm x s (evaluate k s) := by
  unfold evaluate
  extract_lets s1
  have h : Firm x s s1 := firm_armTimer k s
  split
  · exact h.trans (firm_evaluateDrying _ _ _)
  · exact h.trans (.trans (firm_formEstimate _ _) (firm_postHeld _ _ _))
  · refine h.trans (Firm.trans ?_ (firm_postEndpoint _ _))
    split
    · exact .refl _
    · exact firm_formEstimate _ _
  · exact h

theorem firm_resume (k : Fin 4) (i : Nat) (s : State) : Firm x s (resume k i s) :=
  .trans (.trans (firm_modifyKiln _ _ _) (firm_moveKiln _ _ _)) (firm_postDrying _ _ _)

theorem firm_markForced (k : Fin 4) (s : State) : Firm x s (markForced k s) :=
  .trans (firm_modifyKiln _ _ _) (firm_forEachLot _ _ _)

theorem firm_forceRunning (k : Fin 4) (s : State) : Firm x s (forceRunning k s) :=
  .trans (.trans (firm_markForced _ _) (firm_modifyKiln _ _ _)) (firm_enterEndpoint _ _)

theorem firm_forceLoaded (k : Fin 4) (s : State) : Firm x s (forceLoaded k s) := by
  unfold forceLoaded
  extract_lets s1 s2
  have h1 : Firm x s s1 := firm_markForced _ _
  have h2 : Firm x s1 s2 := firm_modifyKiln _ _ _
  exact .trans (.trans (.trans (h1.trans h2) (firm_formEstimate _ _)) (firm_armTimer _ _)) (firm_enterEndpoint _ _)

theorem firm_forceOrphan (k : Fin 4) (s : State) : Firm x s (forceOrphan k s) := by
  unfold forceOrphan
  extract_lets s1 s2 s3
  have h1 : Firm x s s1 := firm_setLoad _ _ _
  have h2 : Firm x s1 s2 := firm_onKfr _ _
  have h3 : Firm x s2 s3 := firm_modifyKiln _ _ _
  exact .trans (.trans ((h1.trans h2).trans h3) (firm_armTimer _ _)) (firm_enterEndpoint _ _)

theorem firm_emptyKiln (k : Fin 4) (s : State) : Firm x s (emptyKiln k s) :=
  .trans (.trans (firm_setLoad _ _ _) (firm_modifyKiln _ _ _)) (firm_moveKiln _ _ _)


/-! ### Fill -/

/-- No kiln is FILLING. -/
theorem fillingKiln_eq_none {s : State} : fillingKiln s = none ↔ ∀ k, (s.kilns.get k).state ≠ .filling := by
  simp [fillingKiln, Tab.lowest?]

/-- The one move to FILLING: with no kiln FILLING, the chosen one is the only one (R47). -/
theorem firm_moveKiln_filling (k : Fin 4) (s : State) (h : fillingKiln s = none) : Firm x s (moveKiln k .filling s) := by
  refine Firm.trans (t := modifyKiln k (fun kl => { kl with state := .filling }) s) ?_ (firm_decideFeed _)
  refine ⟨fun a _ => by cases a <;> rfl, id, fun _ i j hi hj => ?_⟩
  have hself : ∀ j, ((modifyKiln k (fun kl => { kl with state := .filling }) s).kilns.get j).state = .filling → j = k := by
    intro j hj
    by_contra hne
    rw [modifyKiln_other _ s hne] at hj
    exact fillingKiln_eq_none.1 h j hj
  rw [hself i hi, hself j hj]

theorem firm_chooseKiln (k : Fin 4) (s : State) (h : fillingKiln s = none) : Firm x s (chooseKiln k s) := by
  unfold chooseKiln
  extract_lets s1 s2 s3
  have h2 : Firm x s s2 := (firm_setLoad _ _ s).trans (firm_onKfr _ _)
  exact .trans (.trans (h2.trans (firm_moveKiln_filling k s2 h)) (firm_onKfr _ _)) (firm_postDiverter _)

theorem firm_selectKiln (s : State) : Firm x s (selectKiln s) := by
  unfold selectKiln; split
  · rename_i h
    simp only [Bool.and_eq_true, Option.isNone_iff_eq_none] at h
    split
    · exact .refl s
    · exact firm_chooseKiln _ _ h.1.2
  · exact .refl s

theorem firm_enterLoaded (k : Fin 4) (s : State) : Firm x s (enterLoaded k s) := by
  unfold enterLoaded
  extract_lets s1 s2 s3
  have h1 : Firm x s s1 := .trans (firm_modifyKiln _ _ _) (firm_moveKiln _ _ _)
  have h2 : Firm x s1 s2 := firm_forEachLot _ _ _
  have h3 : Firm x s2 s3 := by
    show Firm x s2 (if _ then _ else _)
    split
    · exact firm_startDrying _ _
    · exact .refl _
  exact .trans (.trans (h1.trans h2) h3) (firm_selectKiln _)

theorem firm_lowRoomClose (s : State) : Firm x s (lowRoomClose s) := by
  unfold lowRoomClose; split
  · exact .refl s
  · split
    · exact firm_enterLoaded _ _
    · exact .refl s

theorem firm_capacityClose (k : Fin 4) (s : State) : Firm x s (capacityClose k s) := by
  unfold capacityClose; split
  · exact firm_enterLoaded _ _
  · exact .refl s

theorem firm_creditLoad (k : Fin 4) (f : LoadRecord → LoadRecord) (s : State) : Firm x s (creditLoad k f s) :=
  .trans (firm_setLoad _ _ _) (firm_onKfr (fun b => { b with spillRun := none }) _)

theorem firm_creditFilling (k : Fin 4) (f : LoadRecord → LoadRecord) (s : State) : Firm x s (creditFilling k f s) :=
  .trans (.trans (.trans (firm_creditLoad _ _ _) (firm_decideFeed _)) (firm_capacityClose _ _)) (firm_lowRoomClose _)

theorem firm_spillCarry (i : Fin 32) (l : Lot) (g : Nat) (s : State) : Firm x s (spillCarry i l g s) := by
  unfold spillCarry
  extract_lets s1 s2
  have h1 : Firm x s s1 := firm_updateLot _ _ _
  have h2 : Firm x s1 s2 := by
    show Firm x s1 (if _ then _ else _)
    split
    · exact .refl _
    · exact firm_postEvent _ _ _
  exact .trans (h1.trans h2) (firm_onKfr _ _)

theorem firm_placeByTable (n : Nat) (i : Fin 32) (l : Lot) (g : Nat) (s : State) : Firm x s (placeByTable n i l g s) := by
  induction n generalizing s with
  | zero => exact firm_spillCarry _ _ _ _
  | succ n ih =>
    unfold placeByTable; split
    · exact firm_spillCarry _ _ _ _
    · split
      · split
        · exact firm_creditFilling _ _ _
        · split
          · exact firm_creditFilling _ _ _
          · exact (firm_enterLoaded _ _).trans (ih _)
      · split
        · exact firm_creditLoad _ _ _
        · split
          · exact (firm_creditLoad _ _ _).trans (firm_updateLot _ _ _)
          · exact firm_spillCarry _ _ _ _
      · exact firm_spillCarry _ _ _ _

theorem firm_placeCarry (i : Fin 32) (g : Nat) (s : State) : Firm x s (placeCarry i g s) := by
  unfold placeCarry; split
  · exact .refl s
  · refine Firm.trans ?_ (firm_placeByTable _ _ _ _ _)
    split
    · exact firm_selectKiln s
    · exact .refl s


/-! ### Intake -/

theorem firm_appendTransit (l : Option (Fin 32)) (s : State) : Firm x s (appendTransit l s) := firm_onItk _ s

theorem firm_transitFull (h : Bool) (s : State) : Firm x s (transitFull h s) := by
  unfold transitFull; split
  · exact .refl s
  · exact firm_postEvent _ _ _

theorem firm_startHooking (i : Fin 32) (r : List (Fin 32)) (s : State) : Firm x s (startHooking i r s) :=
  .trans (.trans (.trans (firm_modifyLot _ _ _) (firm_onItk _ _)) (firm_appendTransit _ _)) (firm_selectKiln _)

theorem firm_hookingTest (s : State) : Firm x s (hookingTest s) := by
  unfold hookingTest; split
  · split
    · exact .refl s
    · split
      · exact firm_startHooking _ _ _
      · exact .trans (firm_onItk _ _) (firm_transitFull _ _)
  · exact .refl s

theorem firm_appendBoundary (s : State) : Firm x s (appendBoundary s) := by
  unfold appendBoundary; split
  · exact firm_appendTransit _ _
  · exact .trans (firm_onItk _ _) (firm_transitFull _ _)

theorem firm_endHooking (i : Fin 32) (s : State) : Firm x s (endHooking i s) := by
  unfold endHooking
  extract_lets s1 s2
  have h1 : Firm x s s1 := firm_modifyLot _ _ _
  have h2 : Firm x s1 s2 := firm_onItk _ _
  refine .trans (.trans (h1.trans h2) ?_) (firm_decideFeed _)
  split
  · exact firm_appendBoundary _
  · exact firm_hookingTest _

theorem firm_countHook (i : Fin 32) (s : State) : Firm x s (countHook i s) := firm_modifyLot _ _ _

theorem firm_transitSwitch (e : TransitEntry) (r : List TransitEntry) (s : State) : Firm x s (transitSwitch e r s) := by
  unfold transitSwitch
  extract_lets s1 s2 s3 s4 s5
  have h2 : Firm x s1 s2 := by
    show Firm x s1 (match s1.itk.weighLot with
      | none => s1
      | some w => completionTest w (modifyLot w (fun l => { l with state := .inProcess }) s1))
    split
    · exact .refl s1
    · exact .trans (firm_modifyLot _ _ _) (firm_completionTest _ _)
  have h4 : Firm x s3 s4 := by
    show Firm x s3 (if _ then _ else _)
    split
    · exact firm_selectKiln _
    · exact .refl _
  have h5 : Firm x s4 s5 := by
    show Firm x s4 (if _ then _ else _)
    split
    · exact .trans (firm_onItk _ _) (firm_appendTransit _ _)
    · exact .refl _
  exact .trans (.trans (.trans (.trans (.trans (.trans (firm_onItk _ s) h2) (firm_onItk _ s2)) h4) h5) (firm_hookingTest _))
    (firm_decideFeed _)

theorem firm_markGap (s : State) : Firm x s (markGap s) := by
  unfold markGap; split
  · exact .refl s
  · exact firm_modifyLot _ _ _

theorem firm_carryGrams (g : Nat) (s : State) : Firm x s (carryGrams g s) := by
  unfold carryGrams; split
  · exact .refl s
  · split
    · exact .refl s
    · exact (firm_modifyLot _ _ _).trans (firm_placeCarry _ _ _)

theorem firm_beltIncrease (a b : Nat) (s : State) : Firm x s (beltIncrease a b s) := by
  unfold beltIncrease
  extract_lets v sum
  split
  · split
    · exact .refl s
    · exact .trans (firm_onItk _ _) (firm_postEvent _ _ _)
  · exact .trans (firm_onItk _ _) (firm_carryGrams _ _)

theorem firm_beltArrival (c : Nat) (v : Int) (t : Time) (s : State) : Firm x s (beltArrival c v t s) := by
  unfold beltArrival
  extract_lets interval capped s1 s2
  have h1 : Firm x s s1 := firm_onItk _ _
  have h2 : Firm x s1 s2 := by
    show Firm x s1 (if _ then _ else _)
    split
    · exact firm_markGap _
    · exact .refl _
  exact .trans (h1.trans h2) (firm_beltIncrease _ _ _)


/-! ### Floor -/

theorem firm_fillLayer (g : Grant) (u : Nat) (s : State) : Firm x s (fillLayer g u s) := firm_setLayers _ s

theorem firm_retireAll (xs : List (Contribution × Nat)) (s : State) : Firm x s (retireAll xs s) :=
  firm_foldl (fun s (p : Contribution × Nat) => updateSlot p.1.slot (retire p.1.green p.2) s)
    (fun s _ => firm_updateSlot _ _ s) xs s

theorem firm_completeUnload (g : Grant) (s : State) : Firm x s (completeUnload g s) := by
  unfold completeUnload
  extract_lets u cs s1 s2
  have h1 : Firm x s s1 := .trans (firm_fillLayer _ _ _) (firm_retireAll _ _)
  have h2 : Firm x s1 s2 := .trans (firm_onUar _ _) (firm_emptyKiln _ _)
  exact .trans (.trans (.trans (h1.trans h2) (firm_postConveyor _ _)) (firm_decidePress _))
    (.trans (firm_grantTest _) (firm_selectKiln _))

theorem firm_setSettle (d : Option Time) (s : State) : Firm x s (setSettle d s) := firm_onUar _ s

theorem firm_settleNotice (g : Grant) (n : Notice) (s : State) : Firm x s (settleNotice g n s) := by
  unfold settleNotice
  split
  · exact firm_setSettle _ _
  · split
    · exact firm_setSettle _ _
    · exact .refl s

theorem firm_uarNotice (n : Notice) (s : State) : Firm x s (uarNotice n s) := by
  unfold uarNotice
  extract_lets s1 s2
  have h1 : Firm x s s1 := by
    show Firm x s (if _ then _ else _)
    split
    · exact firm_postPresentConveyor _
    · exact .refl s
  have h2 : Firm x s1 s2 := by
    show Firm x s1 (match s1.uar.grant with
      | none => s1
      | some g => if (setupOf s1 g.kiln).scale = n.channel then settleNotice g n s1 else s1)
    split
    · exact .refl _
    · split
      · exact firm_settleNotice _ _ _
      · exact .refl _
  refine (h1.trans h2).trans ?_
  split
  · exact firm_grantTest _
  · exact .refl _

theorem firm_unloadOverrun (g : Grant) (s : State) : Firm x s (unloadOverrun g s) :=
  .trans (firm_onUar _ _) (firm_postEvent _ _ _)

theorem firm_layerRest (n : Nat) (s : State) : Firm x s (layerRest n s) := by
  unfold layerRest
  split
  · exact .trans (firm_setLayers _ s) (firm_decidePress _)
  · exact .refl s

theorem firm_sweepLayer (l : Layer) (s : State) : Firm x s (sweepLayer l s) := by
  refine (firm_foldl (fun s (sh : Share) => if 0 < sh.grams then updateSlot sh.slot (sweep sh.grams) s else s)
    (fun s sh => ?_) _ s).trans (firm_setLayers _ _)
  split
  · exact firm_updateSlot _ _ _
  · exact .refl s

theorem firm_clearFloor (s : State) : Firm x s (clearFloor s) :=
  .trans (.trans (firm_foldl (fun s (l : Layer) => sweepLayer l s) (fun s l => firm_sweepLayer l s) _ s) (firm_decidePress _))
    (firm_grantTest _)


/-! ### Press -/

theorem firm_movePress (st : PressState) (s : State) : Firm x s (movePress st s) := .trans (firm_onPru _ _) (firm_decidePress _)

theorem firm_takeChargeStart (s : State) : Firm x s (takeChargeStart s) := by
  unfold takeChargeStart; split
  · exact .trans (firm_onPru _ _) (firm_movePress _ _)
  · exact .refl s

theorem firm_takePressCycle (s : State) : Firm x s (takePressCycle s) := by
  unfold takePressCycle; split
  · exact firm_movePress _ _
  · exact .refl s

theorem firm_takeBaleTied (s : State) : Firm x s (takeBaleTied s) := by
  unfold takeBaleTied; split
  · exact .trans (firm_onPru _ _) (firm_movePress _ _)
  · exact .refl s

theorem firm_idlePress (s : State) : Firm x s (idlePress s) := firm_onPru _ s

theorem firm_logBale (b : BaleRecord) (s : State) : Firm x s (logBale b s) := (firm_setLayers _ s).trans (firm_onPru _ _)

theorem firm_onRefsFull (i : Fin 32) (b s : State) : Firm x s (onRefsFull i b s) := by
  unfold onRefsFull; split
  · exact .refl s
  · exact firm_decidePress s

theorem firm_postShare (b : BaleRecord) (i : Fin 32) (g : Nat) (s : State) : Firm x s (postShare b i g s) :=
  .trans (firm_updateLot _ _ _) (firm_onRefsFull _ _ _)

theorem firm_postShares (b : BaleRecord) (shs : List Share) (s : State) : Firm x s (postShares b shs s).1 := by
  induction shs generalizing s with
  | nil => exact .refl s
  | cons sh shs ih =>
    unfold postShares
    split
    · exact ih s
    · exact .trans (firm_postShare _ _ _ _) (ih _)

theorem firm_postRefsFull (i : Fin 32) (s : State) : Firm x s (postRefsFull i s) :=
  .trans (firm_updateLot _ _ _) (firm_onRefsFull _ _ _)

theorem firm_requestPart (w : Fin 32 × Nat) (s : State) : Firm x s (requestPart w s) := by
  unfold requestPart
  split
  · exact .refl s
  · split
    rename_i s1 b e
    have h : Firm x s s1 := by have := firm_partRequest (x := x) w.1 w.2 s; rw [e] at this; exact this
    split
    · exact h
    · exact h.trans (.trans (firm_onPru _ _) (firm_postRefsFull _ _))

theorem firm_postBaleEvents (b : BaleRecord) (s : State) : Firm x s (postBaleEvents b s) := by
  unfold postBaleEvents
  extract_lets s1
  have h : Firm x s s1 := firm_postEvent _ _ _
  split
  · exact h.trans (firm_postEvent _ _ _)
  · exact h

theorem firm_closeBale (g : Nat) (u : Bool) (s : State) : Firm x s (closeBale g u s) := by
  unfold closeBale
  extract_lets b d
  split
  rename_i s1 ws e
  have h1 : Firm x s s1 := by
    have := (firm_logBale (x := x) b s).trans (firm_postShares b b.shares _); rw [e] at this; exact this
  extract_lets s2 s3
  have h2 : Firm x s1 s2 := .trans (firm_postBaleEvents _ _) (firm_idlePress _)
  have h3 : Firm x s2 s3 := .trans (firm_foldl (fun s w => requestPart w s) (fun s w => firm_requestPart w s) _ _)
    (firm_decidePress _)
  have h := (h1.trans h2).trans h3
  split
  · exact h.trans (firm_grantTest _)
  · exact h

theorem firm_pressSettle (s : State) : Firm x s (pressSettle s) := firm_closeBale _ _ s

theorem firm_pruNotice (n : Notice) (s : State) : Firm x s (pruNotice n s) := by
  unfold pruNotice
  split
  · extract_lets s1
    have h : Firm x s s1 := by
      show Firm x s (if _ then _ else _)
      split
      · exact firm_closeBale _ _ _
      · exact .refl s
    split
    · exact h.trans (firm_decidePress _)
    · exact h
  · exact .refl s


/-! ### Channels -/

theorem firm_itkNotice (n : Notice) (s : State) : Firm x s (itkNotice n s) := by
  unfold itkNotice
  extract_lets s1
  have h : Firm x s s1 := by
    show Firm x s (if _ then _ else _)
    split
    · exact firm_beltArrival _ _ _ _
    · exact .refl s
  split
  · exact h.trans (firm_decideFeed _)
  · exact h

theorem firm_kfrNotice (n : Notice) (s : State) : Firm x s (kfrNotice n s) := by
  unfold kfrNotice
  split
  · split
    · exact firm_selectKiln s
    · exact firm_lowRoomClose s
  · exact .refl s

theorem firm_kcNotice (k : Fin 4) (n : Notice) (s : State) : Firm x s (kcNotice k n s) := by
  unfold kcNotice
  split
  · split
    · split
      · exact firm_holdKiln _ _ _
      · exact .refl s
    · split
      · exact firm_holdKiln _ _ _
      · exact .refl s
  · exact .refl s

theorem firm_consume (n : Notice) (s : State) (c : Consumer) : Firm x s (consume n s c) := by
  cases c
  · exact firm_itkNotice n s
  · exact firm_kfrNotice n s
  · exact firm_kcNotice _ n s
  · exact firm_uarNotice n s
  · exact firm_pruNotice n s

theorem firm_deliver (n : Notice) (s : State) : Firm x s (deliver n s) :=
  .trans (firm_inChosenOrder consumers s) (firm_foldl (fun s c => consume n s c) (fun s c => firm_consume n s c) _ _)

theorem firm_deliverAll (ns : List Notice) (s : State) : Firm x s (deliverAll ns s) :=
  .trans (firm_inChosenOrder (ns.flatMap (fun n => consumers.map (fun c => (n, c)))) s)
    (firm_foldl (fun s (p : Notice × Consumer) => consume p.1 s p.2) (fun s p => firm_consume p.1 s p.2) _ _)

theorem firm_goodArrival (i : Fin 64) (e : SampleEntry) (s : State) (h : .channels ∈ x) : Firm x s (goodArrival i e s) :=
  .trans (firm_setChannels _ s h) (firm_deliver _ _)

theorem firm_faultArrival (i : Fin 64) (s : State) (h : .channels ∈ x) : Firm x s (faultArrival i s) := by
  unfold faultArrival
  extract_lets c s1
  have h1 : Firm x s s1 := firm_setChannels _ s h
  split
  · exact h1
  · exact h1.trans (.trans (firm_postEvent _ _ _) (firm_deliver _ _))

theorem firm_takeEntry (n : Nat) (h : .channels ∈ x) (s : State) (e : SampleEntry) : Firm x s (takeEntry n s e) := by
  unfold takeEntry
  split
  · exact .refl s
  · split
    · exact firm_faultArrival _ _ h
    · exact firm_goodArrival _ _ _ h

theorem firm_readSample (f : Frame) (h : .channels ∈ x) (s : State) : Firm x s (readSample f s) :=
  firm_foldl _ (firm_takeEntry _ h) _ s

theorem firm_channelStale (i : Fin 64) (h : .channels ∈ x) (s : State) : Firm x s (channelStale i s) :=
  .trans (.trans (firm_setChannels _ s h) (firm_postEvent _ _ _)) (firm_deliver _ _)

theorem firm_restartChannels (s : State) (h : .channels ∈ x) : Firm x s (restartChannels s) :=
  .trans (firm_setChannels _ _ h) (firm_deliverAll _ _)


/-! ### Link and ring restart -/

theorem firm_taken (s : State) : Firm x s (taken s) := .of_link (linkOnly_taken s)

theorem firm_accept (f : Frame) (handle : State → State) (h : ∀ s, Firm x s (handle s)) (s : State) :
    Firm x s (accept f handle s) := by
  have h1 : Firm x s (taken s) := firm_taken s
  unfold accept
  dsimp only
  split
  · exact h1.trans (firm_withCounts _ _)
  · exact h1.trans (h _)

theorem firm_startPortB (s : State) : Firm x s (startPortB s) := .of_link (linkOnly_startPortB s)

theorem firm_onRct (f : Rct → Rct) (s : State) (h : .recipes ∉ x → (f s.rct).recipes = s.rct.recipes)
    (hg : .staging ∉ x → (f s.rct).staging = s.rct.staging) : Firm x s (onRct f s) :=
  .of_apart (fun a ha => by
    cases a
    case recipes => exact h ha
    case staging => exact hg ha
    all_goals rfl) rfl rfl

theorem firm_setStaging (g : Option Staging) (s : State) (h : .staging ∈ x) : Firm x s (setStaging g s) :=
  firm_onRct _ s (fun _ => rfl) (absurd h)

theorem contents_rewound (t : Ticket) : ticketContents (rewound t) = ticketContents t := rfl

/-- Tickets put back at segment 0 keep their contents (R137, R146, R149). -/
theorem firm_rewind (f : Tku → Tku) (s : State) (h : (f s.tku).queue = s.tku.queue.map rewound) : Firm x s (onTku f s) :=
  .of_posted (posted_onTku f s) (ticketsInv_of_contents (by
    rw [tku_onTku, h, List.map_map]
    exact List.map_congr_left fun t _ => contents_rewound t))

theorem firm_restartTickets (s : State) : Firm x s (restartTickets s) :=
  .trans (firm_rewind _ s rfl) (.of_link (linkOnly_exhaustedTest _))

theorem firm_restartBlock (h : .channels ∈ x) (hr : .staging ∈ x) (s : State) (b : RestartBlock) :
    Firm x s (restartBlock s b) := by
  cases b
  · exact firm_restartTickets s
  · exact firm_restartChannels s h
  · exact firm_setStaging none s hr

theorem firm_ringRestart (f : Frame) (h : .channels ∈ x) (hr : .staging ∈ x) (s : State) : Firm x s (ringRestart f s) :=
  .trans (.trans (.trans (firm_withCounts _ s) (firm_onRlu _ _)) (.trans (firm_forward f _)
    (firm_inChosenOrder [RestartBlock.tku, .smn, .rct] _))) (firm_foldl restartBlock (firm_restartBlock h hr) _ _)


/-! ### Marks and the handling of a request -/

theorem firm_takeHook (s : State) : Firm x s (takeHook s) := by
  unfold takeHook
  split
  · exact firm_postEvent _ _ _
  · split
    · exact .trans (firm_countHook _ _) (firm_endHooking _ _)
    · exact firm_countHook _ _

theorem firm_takeHookShort (s : State) : Firm x s (takeHookShort s) := by
  unfold takeHookShort
  split
  · exact firm_postEvent _ _ _
  · exact .trans (firm_countHook _ _) (firm_endHooking _ _)

theorem firm_takeUnloadDone (n : Nat) (s : State) : Firm x s (takeUnloadDone n s) := by
  unfold takeUnloadDone
  split
  · exact .refl s
  · split
    · exact firm_completeUnload _ _
    · exact .refl s

theorem firm_handleMark (f : Frame) (node : StationConfig → Nat) (act : State → State) (h : ∀ s, Firm x s (act s)) (s : State) :
    Firm x s (handleMark f node act s) := by
  unfold handleMark
  refine .trans ?_ (firm_forward f _)
  split
  · exact h s
  · exact .refl s

/-- An owner of a request that is firm. -/
def OwnerFirm (x : List Setting) (owner : State → State × Answer) : Prop := ∀ s, Firm x s (owner s).1

theorem firm_pair {s t : State} {a : Answer} (h : Firm x s t) : Firm x s (Prod.mk t a).1 := h

theorem firm_answer (r : Request) (n : Nat) (s : State) (h : OwnerFirm x r.owner) : Firm x s (answer r n s).1 := by
  unfold answer
  split
  · exact .refl s
  · split
    · exact .refl s
    · split
      · exact .refl s
      · exact h s

theorem firm_serve (f : Frame) (r : Request) (h : OwnerFirm x r.owner) (s : State) : Firm x s (serve f r s) := by
  unfold serve
  split
  · exact .refl s
  · exact .trans (firm_answer r _ s h) (firm_postReply _ _)

theorem firm_handleRequest (f : Frame) (r : Request) (h : OwnerFirm x r.owner) (s : State) : Firm x s (handleRequest f r s) := by
  unfold handleRequest
  split
  · exact .trans (firm_withCounts _ s) (firm_serve f r h _)
  · exact firm_forward f s

theorem firm_takeFrame (b : Bool) (f : Frame) (handle : State → State) (h : ∀ s, Firm x s (handle s)) (s : State) :
    Firm x s (takeFrame b f handle s) := by
  unfold takeFrame
  split
  · exact .trans (firm_accept f handle h s) (firm_startPortB _)
  · exact .refl s

theorem firm_takeRequest (b : Bool) (f : Frame) (r : Request) (h : OwnerFirm x r.owner) (s : State) :
    Firm x s (takeRequest b f r s) := firm_takeFrame b f _ (firm_handleRequest f r h) s


/-! ### Owners of table requests -/

theorem firm_readAnswer (lo hi : Nat) (e : State → List (List Byte)) (f : Frame) :
    OwnerFirm x (fun s => readAnswer lo hi (e s) f s) := by
  intro s
  simp only [readAnswer]
  split
  · exact .refl s
  · exact .refl s

theorem firm_inWindow (f : Frame) (lo hi : Nat) (owner : State → State × Answer) (h : OwnerFirm x owner) :
    OwnerFirm x (inWindow f lo hi owner) := by
  intro s
  unfold inWindow
  split
  · exact h s
  · exact .refl s

theorem firm_writeChannels (f : Frame) (h : .channels ∈ x) : OwnerFirm x (writeChannels f) := by
  intro s
  unfold writeChannels
  split
  · exact .refl s
  · extract_lets t
    split
    · exact .trans (firm_setChannels t s h) (firm_deliverAll _ _)
    · exact .refl s

theorem firm_writeActuators (f : Frame) (h : .actuators ∈ x) : OwnerFirm x (writeActuators f) := by
  intro s
  unfold writeActuators
  extract_lets es t
  split
  · exact .refl s
  · exact .of_apart (fun a ha => by
    cases a
    case actuators => exact absurd h ha
    all_goals rfl) rfl rfl

theorem firm_writeNodeClasses (f : Frame) (h : .nodeClasses ∈ x) : OwnerFirm x (writeNodeClasses f) := by
  intro s
  unfold writeNodeClasses
  split
  · exact .refl s
  · exact .of_apart (fun a ha => by
    cases a
    case nodeClasses => exact absurd h ha
    all_goals rfl) rfl rfl

theorem firm_writeSetups (f : Frame) (h : .setups ∈ x) : OwnerFirm x (writeSetups f) := by
  intro s
  unfold writeSetups
  extract_lets es
  split
  · exact .refl s
  · exact .trans (.trans (.trans (firm_onKfr _ s (absurd h)) (firm_selectKiln _)) (firm_lowRoomClose _)) (firm_decideFeed _)

theorem firm_resetBelt (b : Bool) (s : State) : Firm x s (resetBelt b s) := by
  unfold resetBelt; split
  · exact firm_onItk _ s
  · exact .refl s

theorem firm_retimeSilence (b : Bool) (s : State) : Firm x s (retimeSilence b s) := by
  unfold retimeSilence; split
  · exact firm_onRlu _ s
  · exact firm_silenceTest s

theorem firm_configTest (b c : Bool) (s : State) (r : ConfigReader) : Firm x s (configTest b c s r) := by
  cases r
  · exact .trans (firm_resetBelt _ _) (firm_decideFeed _)
  · exact firm_lowRoomClose s
  · exact firm_grantTest s
  · exact firm_decidePress s
  · exact firm_retimeSilence _ s

theorem firm_configWritten (m : Mgu) (s : State) : Firm x s (configWritten m s) :=
  .trans (firm_inChosenOrder [ConfigReader.itk, .kfr, .uar, .pru, .rlu] s) (firm_foldl (configTest _ _) (firm_configTest _ _) _ _)

theorem firm_writeConfig (f : Frame) (h : .config ∈ x) (hv : .configValid ∈ x) : OwnerFirm x (writeConfig f) := by
  intro s
  unfold writeConfig
  extract_lets c
  split
  · refine .trans (.of_apart (t := onMgu (fun b => { b with config := c, configValid := true }) s) (fun a ha => ?_) rfl rfl)
      (firm_configWritten _ _)
    cases a
    case config => exact absurd h ha
    case configValid => exact absurd hv ha
    all_goals rfl
  · exact .refl s

theorem firm_refuseWrite : OwnerFirm x refuseWrite := fun s => .refl s


/-! ### Owners of the set-up requests -/

theorem firm_beginRecipe (f : Frame) (h : .staging ∈ x) : OwnerFirm x (beginRecipe f) := by
  intro s
  unfold beginRecipe
  extract_lets n d r
  split
  · exact .refl s
  · exact firm_setStaging _ s h

theorem firm_stageRecipe (f : Frame) (h : .staging ∈ x) : OwnerFirm x (stageRecipe f) := by
  intro s
  unfold stageRecipe
  split
  · exact .refl s
  · split
    · exact firm_setStaging _ s h
    · split
      · exact .refl s
      · exact firm_setStaging _ s h

theorem firm_endRecipe (f : Frame) (h : .staging ∈ x) (hr : .recipes ∈ x) : OwnerFirm x (endRecipe f) := by
  intro s
  unfold endRecipe
  split
  · exact .refl s
  · split
    · exact firm_setStaging _ s h
    · exact .trans (firm_onRct _ s (absurd hr) fun _ => rfl) (firm_setStaging _ _ h)

theorem firm_setTime (f : Frame) (h : .timeOfDay ∈ x) (hv : .timeValid ∈ x) (hn : .nextSecond ∈ x) : OwnerFirm x (setTime f) :=
  fun _ => .of_apart (fun a ha => by
    cases a
    case timeOfDay => exact absurd h ha
    case timeValid => exact absurd hv ha
    case nextSecond => exact absurd hn ha
    all_goals rfl) rfl rfl

theorem firm_mapEvents (g : Fin 24 → EventCell → EventCell) (s : State) : Firm x s (mapEvents g s) :=
  .of_apart (fun a _ => by cases a <;> rfl) rfl rfl

theorem firm_enableEvents (f : Frame) (h : .reportDest ∈ x) : OwnerFirm x (enableEvents f) :=
  fun s => (firm_mapEvents (fun i e => { e with enable := inEventSet f i.val }) s).trans
    (.of_apart (fun a ha => by
      cases a
      case reportDest => exact absurd h ha
      all_goals rfl) rfl rfl)

theorem firm_clearEvents (f : Frame) : OwnerFirm x (clearEvents f) := fun s => firm_mapEvents _ s

theorem firm_orphanCheck (s : State) (k : Fin 4) : Firm x s (orphanCheck s k) := by
  unfold orphanCheck; split
  · exact .trans (.trans (firm_moveKiln _ _ _) (firm_postBurner _ _ _)) (firm_postEvent _ _ _)
  · exact .refl s

theorem firm_startDevice (h : .mode ∈ x) : OwnerFirm x startDevice := by
  intro s
  unfold startDevice
  split
  · exact .refl s
  · extract_lets s1
    have h1 : Firm x s s1 := .of_apart (fun a ha => by
      cases a
      case mode => exact absurd h ha
      all_goals rfl) rfl rfl
    split
    rename_i order s2 e
    have h2 : Firm x s1 s2 := by have := firm_inChosenOrder (x := x) (List.finRange 4) s1; rw [e] at this; exact this
    extract_lets s3
    have h3 : Firm x s2 s3 := firm_foldl orphanCheck firm_orphanCheck _ _
    exact firm_pair (((h1.trans h2).trans h3).trans (.trans (.trans (.trans (firm_hookingTest _) (firm_decideFeed _))
      (firm_selectKiln _)) (firm_decidePress _)))


/-! ### Owners of the job requests -/

theorem firm_openLot (f : Frame) : OwnerFirm x (openLot f) := by
  intro s
  unfold openLot
  split
  · exact .refl s
  · split
    · exact .refl s
    · split
      · exact .refl s
      · split
        · exact .refl s
        · exact .trans (.trans (.trans (firm_setLot _ _ s) (firm_onItk _ _)) (firm_hookingTest _)) (firm_decideFeed _)

theorem firm_cancelLot (f : Frame) : OwnerFirm x (cancelLot f) := by
  intro s
  unfold cancelLot
  split
  · exact .refl s
  · split
    · exact .trans (firm_onItk _ s) (firm_setLot _ _ _)
    · exact .refl s

theorem firm_endLot (f : Frame) : OwnerFirm x (endLot f) := by
  intro s
  unfold endLot
  split
  · exact .refl s
  · split
    · exact firm_endHooking _ _
    · exact .refl s

theorem firm_forKiln (f : Frame) (owner : Fin 4 → State → State × Answer) (h : ∀ k, OwnerFirm x (owner k)) :
    OwnerFirm x (forKiln f owner) := by
  intro s
  unfold forKiln
  split
  · exact .refl s
  · exact h _ s

theorem firm_startKiln (k : Fin 4) : OwnerFirm x (startKiln k) := by
  intro s
  unfold startKiln; split
  · exact firm_pair (firm_startDrying k s)
  · exact .refl s

theorem firm_holdRequest (k : Fin 4) : OwnerFirm x (holdRequest k) := by
  intro s
  unfold holdRequest; split
  · exact firm_holdKiln k _ s
  · exact .refl s

theorem firm_resumeRequest (k : Fin 4) : OwnerFirm x (resumeRequest k) := by
  intro s
  unfold resumeRequest; split
  · split
    · exact firm_resume _ _ _
    · exact .refl s
  · exact .refl s

theorem firm_forceEnd (k : Fin 4) : OwnerFirm x (forceEnd k) := by
  intro s
  unfold forceEnd; split
  · exact firm_pair (firm_forceLoaded k s)
  · exact firm_pair (firm_forceRunning k s)
  · exact firm_pair (firm_forceRunning k s)
  · exact firm_pair (firm_forceOrphan k s)
  · exact .refl s

theorem firm_closeFill (k : Fin 4) : OwnerFirm x (closeFill k) := by
  intro s
  unfold closeFill; split
  · exact firm_enterLoaded k s
  · exact .refl s

theorem firm_clearKiln (k : Fin 4) : OwnerFirm x (clearKiln k) := by
  intro s
  unfold clearKiln; split
  · exact .trans (firm_emptyKiln k s) (firm_selectKiln _)
  · exact .refl s

theorem firm_recipeRequest (f : Frame) (k : Fin 4) (h : .setups ∈ x) : OwnerFirm x (recipeRequest f k) := by
  intro s
  unfold recipeRequest; split
  · exact .refl s
  · exact firm_pair (firm_onKfr _ s (absurd h))

theorem firm_clearFloorRequest : OwnerFirm x clearFloorRequest := by
  intro s
  unfold clearFloorRequest; split
  · exact firm_clearFloor s
  · exact .refl s

theorem firm_abortPress : OwnerFirm x abortPress := by
  intro s
  unfold abortPress; split
  · exact .trans (firm_idlePress s) (firm_decidePress _)
  · exact .refl s



theorem firm_setCredits (n : Nat) (s : State) : Firm x s (setCredits n s) := firm_onTku _ s

theorem firm_addCredits (f : Frame) : OwnerFirm x (addCredits f) := by
  intro s
  unfold addCredits; split
  · exact .trans (firm_setCredits _ s) (firm_sendTests _)
  · exact .refl s

theorem firm_setCreditsRequest (f : Frame) : OwnerFirm x (setCreditsRequest f) := by
  intro s
  unfold setCreditsRequest
  extract_lets n s1
  have h1 : Firm x s s1 := firm_setCredits _ s
  refine .trans (h1.trans ?_) (firm_sendTests _)
  split
  · exact firm_withdraw _
  · exact .refl _

theorem firm_stopTickets : OwnerFirm x stopTickets := fun s => .trans (firm_onTku _ s) (firm_withdraw _)

theorem firm_runTickets : OwnerFirm x runTickets := by
  intro s
  unfold runTickets
  show Firm x s (if _ then _ else _)
  split
  · exact .refl s
  · exact .trans (firm_onTku _ s) (firm_sendTests _)

theorem firm_rewindTickets : OwnerFirm x rewindTickets := fun s =>
  .trans (.trans (firm_rewind _ s rfl) (firm_withdraw _)) (firm_sendTests _)

/-- A ticket taken from the queue leaves fewer blocks held (R145). -/
theorem firm_dropTicket (n : Nat) (s : State) : Firm x s (dropTicket n s) :=
  .of_posted (posted_onTku _ s) fun h => by
    obtain ⟨hblocks, hlen, hserials⟩ := h
    have hsub : (s.tku.queue.filter fun t => decide (t.serial ≠ n)).Sublist s.tku.queue := List.filter_sublist
    exact ⟨((hsub.map _).sum_le_sum (by simp)).trans hblocks, hsub.length_le.trans hlen, hserials.sublist (hsub.map _)⟩

theorem firm_releaseTicket (f : Frame) : OwnerFirm x (releaseTicket f) := by
  intro s
  unfold releaseTicket; split
  · exact .refl s
  · split
    · exact .refl s
    · split
      · exact (firm_dropTicket _ s).trans (firm_buildTest _)
      · exact .refl s

theorem firm_statusRead (f : Frame) (form : State → Option View) : OwnerFirm x (statusRead f form).owner := fun s => .refl s


/-! ### Deadlines -/

theorem firm_atDeadline (b : Bool) (act : State → State) (h : ∀ s, Firm x s (act s)) (s : State) :
    Firm x s (atDeadline b act s) := by
  unfold atDeadline; split
  · exact .trans (h s) (firm_startPortB _)
  · exact .refl s

theorem firm_takeTransit (s : State) : Firm x s (takeTransit s) := by
  unfold takeTransit; split
  · exact .refl s
  · exact firm_transitSwitch _ _ s

theorem firm_overdryReached (k : Fin 4) (s : State) : Firm x s (overdryReached k s) :=
  .trans (firm_modifyKiln _ _ s) (firm_postEvent _ _ _)

theorem firm_withGrant (act : Grant → State → State) (h : ∀ g s, Firm x s (act g s)) (s : State) :
    Firm x s (withGrant act s) := by
  unfold withGrant; split
  · exact .refl s
  · exact h _ s

theorem firm_nextSecondOfDay (h : .timeOfDay ∈ x) (hn : .nextSecond ∈ x) (s : State) : Firm x s (nextSecondOfDay s) :=
  .of_apart (fun a ha => by
    cases a
    case timeOfDay => exact absurd h ha
    case nextSecond => exact absurd hn ha
    all_goals rfl) rfl rfl

/-! ### The rows -/

/-- The settings that a command may change (R4, R11 to R13, R18, R45, R60 to R63, R173, R180, R183 to R185, R188). -/
def changes : Instr → List Setting
  | .sampleFrame _ | .channelStaleDeadline _ | .tableWriteChannel _ => [.channels]
  | .restart _                                                     => [.channels, .staging]
  | .tableWriteActuator _                                          => [.actuators]
  | .tableWriteNodeClass _                                         => [.nodeClasses]
  | .tableWriteConfig _                                            => [.config, .configValid]
  | .tableWriteKilnSetup _ | .kilnRecipe _                         => [.setups]
  | .recipeBegin _ | .recipeStage _                                => [.staging]
  | .recipeEnd _                                                   => [.staging, .recipes]
  | .timeSet _                                                     => [.timeOfDay, .timeValid, .nextSecond]
  | .timeOfDaySecond                                               => [.timeOfDay, .nextSecond]
  | .eventEnable _                                                 => [.reportDest]
  | .start _                                                       => [.mode]
  | _                                                              => []

theorem firm_forwards (b : Bool) (f : Frame) (s : State) : Firm x s (takeFrame b f (forward f) s) :=
  firm_takeFrame b f _ (firm_forward f) s

theorem firm_mark (b : Bool) (f : Frame) (node : StationConfig → Nat) {act : State → State} (h : ∀ s, Firm x s (act s)) (s : State) :
    Firm x s (takeFrame b f (handleMark f node act) s) :=
  firm_takeFrame b f _ (firm_handleMark f node act h) s

theorem firm_restartFrame (f : Frame) (h : .channels ∈ x) (hr : .staging ∈ x) (s : State) :
    Firm x s (if bringsRestart s f then ringRestart f s else forward f s) := by
  split
  · exact firm_ringRestart f h hr s
  · exact firm_forward f s

theorem firm_badFrame (bytes : List Byte) (s : State) : Firm x s (if frameBad bytes then startPortB (dropBad s) else s) := by
  split
  · exact .of_link ((linkOnly_dropBad s).trans (linkOnly_startPortB _))
  · exact .refl s

theorem firm_frameBoundary (s : State) : Firm x s (choose (onRlu (fun b => { b with portB := none }) s)) :=
  (firm_onRlu _ s).trans (.of_link (linkOnly_choose _))

theorem firm_passCommand (f : Frame) (s : State) : Firm x s (passCommand f s) := .of_link (linkOnly_passCommand f s)

theorem firm_tableRead (b : Bool) (f : Frame) (lo hi : Nat) (e : State → List (List Byte)) (s : State) :
    Firm x s (takeRequest b f (tableRead f lo hi e) s) :=
  firm_takeRequest b f _ (firm_readAnswer lo hi e f) s

theorem firm_statusReadRow (b : Bool) (f : Frame) (form : State → Option View) (s : State) :
    Firm x s (takeRequest b f (statusRead f form) s) :=
  firm_takeRequest b f _ (firm_statusRead f form) s

/-- Every command but POWER_ON changes the settings of its own alone, and keeps the ticket store and the filling kiln. -/
theorem firm_exec (i : Instr) (s : State) (hpower : ∀ straps, i ≠ .powerOn straps) :
    ∃ t, exec i s = .next t ∧ Firm (changes i) s t := by
  cases i with
  | powerOn straps => exact absurd rfl (hpower straps)
  | badFrame bytes => exact ⟨_, rfl, firm_badFrame bytes s⟩
  | ownFrameRemoved f => exact ⟨_, rfl, firm_takeFrame _ f _ Firm.refl s⟩
  | sampleFrame f => exact ⟨_, rfl, firm_takeFrame _ f _ (fun s => (firm_readSample f (by simp [changes]) s).trans (firm_forward f _)) s⟩
  | hook f => exact ⟨_, rfl, firm_mark _ f _ firm_takeHook s⟩
  | hookShort f => exact ⟨_, rfl, firm_mark _ f _ firm_takeHookShort s⟩
  | chargeStart f => exact ⟨_, rfl, firm_mark _ f _ firm_takeChargeStart s⟩
  | pressCycle f => exact ⟨_, rfl, firm_mark _ f _ firm_takePressCycle s⟩
  | baleTied f => exact ⟨_, rfl, firm_mark _ f _ firm_takeBaleTied s⟩
  | unloadDone f => exact ⟨_, rfl, firm_mark _ f _ (firm_takeUnloadDone _) s⟩
  | commandFrame f => exact ⟨_, rfl, firm_takeFrame _ f _ (firm_passCommand f) s⟩
  | restart f => exact ⟨_, rfl, firm_takeFrame _ f _ (firm_restartFrame f (by simp [changes]) (by simp [changes])) s⟩
  | passThroughFrame f => exact ⟨_, rfl, firm_forwards _ f s⟩
  | malformedMarkFrame f => exact ⟨_, rfl, firm_forwards _ f s⟩
  | frameBoundary => exact ⟨_, rfl, firm_frameBoundary s⟩
  | channelStaleDeadline c => exact ⟨_, rfl, firm_atDeadline _ _ (firm_channelStale c (by simp [changes])) s⟩
  | transitEntryDue => exact ⟨_, rfl, firm_atDeadline _ _ firm_takeTransit s⟩
  | evaluationExpiry k => exact ⟨_, rfl, firm_atDeadline _ _ (firm_evaluate k) s⟩
  | overdryDeadline k => exact ⟨_, rfl, firm_atDeadline _ _ (firm_overdryReached k) s⟩
  | unloadSettleDeadline => exact ⟨_, rfl, firm_atDeadline _ _ (firm_withGrant _ firm_completeUnload) s⟩
  | unloadOverrunDeadline => exact ⟨_, rfl, firm_atDeadline _ _ (firm_withGrant _ firm_unloadOverrun) s⟩
  | layerRestDue n => exact ⟨_, rfl, firm_atDeadline _ _ (firm_layerRest n) s⟩
  | pressSettleDeadline => exact ⟨_, rfl, firm_atDeadline _ _ firm_pressSettle s⟩
  | ringIdleTimeout => exact ⟨_, rfl, firm_atDeadline _ _ firm_silenceTest s⟩
  | timeOfDaySecond => exact ⟨_, rfl, firm_atDeadline _ _ (firm_nextSecondOfDay (by simp [changes]) (by simp [changes])) s⟩
  | requestUndefined f => exact ⟨_, rfl, firm_takeRequest _ f _ (fun s => Firm.refl s) s⟩
  | tableReadChannel f | tableReadActuator f | tableReadNodeClass f | tableReadKilnSetup f | tableReadConfig f
  | tableReadRecipe f | tableReadBaleLog f => exact ⟨_, rfl, firm_tableRead _ f _ _ _ s⟩
  | tableWriteChannel f => exact ⟨_, rfl, firm_takeRequest _ f _ (firm_inWindow f _ _ _ (firm_writeChannels f (by simp [changes]))) s⟩
  | tableWriteActuator f => exact ⟨_, rfl, firm_takeRequest _ f _ (firm_inWindow f _ _ _ (firm_writeActuators f (by simp [changes]))) s⟩
  | tableWriteNodeClass f => exact ⟨_, rfl, firm_takeRequest _ f _ (firm_inWindow f _ _ _ (firm_writeNodeClasses f (by simp [changes]))) s⟩
  | tableWriteKilnSetup f => exact ⟨_, rfl, firm_takeRequest _ f _ (firm_inWindow f _ _ _ (firm_writeSetups f (by simp [changes]))) s⟩
  | tableWriteConfig f => exact ⟨_, rfl, firm_takeRequest _ f _ (firm_inWindow f _ _ _ (firm_writeConfig f (by simp [changes]) (by simp [changes]))) s⟩
  | tableWriteRecipe f | tableWriteBaleLog f =>
    exact ⟨_, rfl, firm_takeRequest _ f _ (firm_inWindow f _ _ _ firm_refuseWrite) s⟩
  | statusReadDevice f | statusReadChannels f | statusReadEvents f | statusReadIntake f | statusReadLot f | statusReadFill f
  | statusReadKilns f | statusReadFloor f | statusReadPress f | statusReadBale f | statusReadTickets f | statusReadTicket f
  | statusReadLink f => exact ⟨_, rfl, firm_statusReadRow _ f _ s⟩
  | recipeBegin f => exact ⟨_, rfl, firm_takeRequest _ f _ (firm_beginRecipe f (by simp [changes])) s⟩
  | recipeStage f => exact ⟨_, rfl, firm_takeRequest _ f _ (firm_stageRecipe f (by simp [changes])) s⟩
  | recipeEnd f => exact ⟨_, rfl, firm_takeRequest _ f _ (firm_endRecipe f (by simp [changes]) (by simp [changes])) s⟩
  | timeSet f => exact ⟨_, rfl, firm_takeRequest _ f _ (firm_setTime f (by simp [changes]) (by simp [changes]) (by simp [changes])) s⟩
  | eventEnable f => exact ⟨_, rfl, firm_takeRequest _ f _ (firm_enableEvents f (by simp [changes])) s⟩
  | eventClear f => exact ⟨_, rfl, firm_takeRequest _ f _ (firm_clearEvents f) s⟩
  | start f => exact ⟨_, rfl, firm_takeRequest _ f _ (firm_startDevice (by simp [changes])) s⟩
  | lotOpen f => exact ⟨_, rfl, firm_takeRequest _ f _ (firm_openLot f) s⟩
  | lotCancel f => exact ⟨_, rfl, firm_takeRequest _ f _ (firm_cancelLot f) s⟩
  | lotEnd f => exact ⟨_, rfl, firm_takeRequest _ f _ (firm_endLot f) s⟩
  | kilnStart f => exact ⟨_, rfl, firm_takeRequest _ f _ (firm_forKiln f _ firm_startKiln) s⟩
  | kilnHold f => exact ⟨_, rfl, firm_takeRequest _ f _ (firm_forKiln f _ firm_holdRequest) s⟩
  | kilnResume f => exact ⟨_, rfl, firm_takeRequest _ f _ (firm_forKiln f _ firm_resumeRequest) s⟩
  | kilnForceEnd f => exact ⟨_, rfl, firm_takeRequest _ f _ (firm_forKiln f _ firm_forceEnd) s⟩
  | kilnFillClose f => exact ⟨_, rfl, firm_takeRequest _ f _ (firm_forKiln f _ firm_closeFill) s⟩
  | kilnClear f => exact ⟨_, rfl, firm_takeRequest _ f _ (firm_forKiln f _ firm_clearKiln) s⟩
  | kilnRecipe f => exact ⟨_, rfl, firm_takeRequest _ f _ (firm_forKiln f _ fun k => firm_recipeRequest f k (by simp [changes])) s⟩
  | floorClear f => exact ⟨_, rfl, firm_takeRequest _ f _ firm_clearFloorRequest s⟩
  | pressAbort f => exact ⟨_, rfl, firm_takeRequest _ f _ firm_abortPress s⟩
  | ticketCreditAdd f => exact ⟨_, rfl, firm_takeRequest _ f _ (firm_addCredits f) s⟩
  | ticketCreditSet f => exact ⟨_, rfl, firm_takeRequest _ f _ (firm_setCreditsRequest f) s⟩
  | ticketStop f => exact ⟨_, rfl, firm_takeRequest _ f _ firm_stopTickets s⟩
  | ticketRun f => exact ⟨_, rfl, firm_takeRequest _ f _ firm_runTickets s⟩
  | ticketRewind f => exact ⟨_, rfl, firm_takeRequest _ f _ firm_rewindTickets s⟩
  | ticketRelease f => exact ⟨_, rfl, firm_takeRequest _ f _ (firm_releaseTicket f) s⟩

/-- What a command but POWER_ON leaves firm, from where it led. -/
theorem Firm.of_exec {i : Instr} {s t : State} (hpower : ∀ straps, i ≠ .powerOn straps) (h : exec i s = .next t) :
    Firm (changes i) s t := by
  obtain ⟨u, hu, hfirm⟩ := firm_exec i s hpower
  obtain rfl : t = u := Host.Outcome.next.inj (h.symm.trans hu)
  exact hfirm

/-- Settles O10: by `step_keeps`, a build being made only where there is room and with a free serial. -/
theorem everyStepKeepsTheTicketStore : Obligations.EveryStepKeepsTheTicketStore := fun _ _ =>
  step_keeps (P := TicketsInv) (fun _ _ _ _ h => h) ticketsInv_powerOn fun _ _ _ hpower h => (Firm.of_exec hpower h).tickets

/-- Settles O11: by `step_keeps`, a kiln being moved to FILLING only while none is. -/
theorem everyStepKeepsOneFillingKiln : Obligations.EveryStepKeepsOneFillingKiln := fun _ _ =>
  step_keeps (P := FillingInv) (fun _ _ _ _ h => h) fillingInv_powerOn fun _ _ _ hpower h => (Firm.of_exec hpower h).filling

/-- A setting that only some commands change: it is in the list of no other. -/
theorem changes_spec (i : Instr) :
    .clock ∉ changes i ∧ .address ∉ changes i ∧ ((∀ f, i ≠ .tableWriteActuator f) → .actuators ∉ changes i) ∧
    ((∀ f, i ≠ .tableWriteNodeClass f) → .nodeClasses ∉ changes i) ∧
    ((∀ f, i ≠ .tableWriteConfig f) → .config ∉ changes i ∧ .configValid ∉ changes i) ∧
    ((∀ f, i ≠ .start f) → .mode ∉ changes i) ∧
    ((∀ f, i ≠ .timeSet f) → .timeValid ∉ changes i ∧
      (i ≠ .timeOfDaySecond → .timeOfDay ∉ changes i ∧ .nextSecond ∉ changes i)) ∧
    ((∀ f, i ≠ .eventEnable f) → .reportDest ∉ changes i) ∧
    ((∀ f, i ≠ .sampleFrame f) → (∀ c, i ≠ .channelStaleDeadline c) → (∀ f, i ≠ .restart f) → (∀ f, i ≠ .tableWriteChannel f) →
      .channels ∉ changes i) ∧
    ((∀ f, i ≠ .tableWriteKilnSetup f) → (∀ f, i ≠ .kilnRecipe f) → .setups ∉ changes i) ∧
    ((∀ f, i ≠ .recipeEnd f) → .recipes ∉ changes i ∧
      ((∀ f, i ≠ .recipeBegin f) → (∀ f, i ≠ .recipeStage f) → (∀ f, i ≠ .restart f) → .staging ∉ changes i)) := by
  cases i <;> simp [changes]

/-- Settles O7: each setting stands across a command that does not list it. -/
theorem settingsChangeByTheirOwnCommandsAlone : Obligations.SettingsChangeByTheirOwnCommandsAlone := by
  intro i s t h hpower
  have hsame := (Firm.of_exec hpower h).settings
  obtain ⟨hclock, haddress, hactuators, hclasses, hconfig, hmode, htime, hdest, hchannels, hsetups, hrecipes⟩ := changes_spec i
  refine ⟨hsame _ hclock, hsame _ haddress, fun hi => hsame _ (hactuators hi), fun hi => hsame _ (hclasses hi),
    fun hi => ⟨hsame _ (hconfig hi).1, hsame _ (hconfig hi).2⟩, fun hi => hsame _ (hmode hi), fun hi => ?time,
    fun hi => hsame _ (hdest hi), fun hi hc hr hw => hsame _ (hchannels hi hc hr hw), fun hi hk => hsame _ (hsetups hi hk),
    fun hi => ?recipes⟩
  case time =>
    obtain ⟨hvalid, hday⟩ := htime hi
    exact ⟨hsame _ hvalid, fun hsecond => ⟨hsame _ (hday hsecond).1, hsame _ (hday hsecond).2⟩⟩
  case recipes =>
    obtain ⟨htable, hstaging⟩ := hrecipes hi
    exact ⟨hsame _ htable, fun hb hs hr => hsame _ (hstaging hb hs hr)⟩

end Sys2Proof.Machine
end

section
/-! The ring link and the guard (chapter 9): frames taken, passed, dropped and inserted, the choice at a frame boundary, the
posting to the queues, and the ring restart. -/

namespace Sys2Proof.Machine

/-! ### A frame taken by its row -/

/-- A frame of its row, not the device's own, is heard, counted and handled, and an idle port B then makes its choice. -/
theorem takeFrame_handled {s : State} {f : Frame} (h : fromOwn s f = false) (handle : State → State) :
    takeFrame true f handle s = startPortB (handle (taken s)) := by
  show startPortB (if fromOwn s f then _ else handle (taken s)) = _
  rw [h]
  rfl

/-- The device's own frame is removed and counted (R165). -/
theorem takeFrame_own {s : State} {f : Frame} (h : fromOwn s f = true) (handle : State → State) :
    takeFrame true f handle s = startPortB (withCounts (fun c => { c with ownRemoved := bump32 c.ownRemoved }) (taken s)) := by
  show startPortB (if fromOwn s f then _ else handle (taken s)) = _
  rw [if_pos h]
  rfl

/-! ### The guard (R174, R175, R191) -/

theorem guardValue_transparent {s : State} (h : started s = false) (n m v : Nat) : guardValue n m v s = (v, s) := by
  simp [guardValue, h]

theorem guardValue_unmatched {s : State} {n m : Nat} (h : guardEntry s n m = none) (v : Nat) : guardValue n m v s = (v, s) := by
  simp [guardValue, h]

theorem guardValue_matched {s : State} {n m : Nat} {a : Actuator} (hstarted : started s = true)
    (h : guardEntry s n m = some a) (v : Nat) :
    guardValue n m v s = if guarded s a v = v then (v, s) else (guarded s a v, countRewrite a.function s) := by
  simp [guardValue, hstarted, h]

theorem withValue_same (f : Frame) : withValue f (field f.payload 1 2) = f := if_pos rfl

theorem passCommand_transparent {s : State} (h : started s = false) (f : Frame) : passCommand f s = forward f s := by
  simp [passCommand, h]

theorem passCommand_badLength {s : State} {f : Frame} (h : started s = true) (hl : f.payload.length ≠ 3) :
    passCommand f s = withCounts (fun c => { c with badDropped := bump32 c.badDropped }) s := by
  simp [passCommand, h, hl]

/-- In started mode a COMMAND frame of length 3 passes with the value that the guard gives it. -/
theorem passCommand_started {s : State} {f : Frame} (h : started s = true) (hl : f.payload.length = 3) :
    passCommand f s =
      forward (withValue f (guardValue f.dst.toNat (field f.payload 0 1) (field f.payload 1 2) s).1)
        (guardValue f.dst.toNat (field f.payload 0 1) (field f.payload 1 2) s).2 := by
  simp [passCommand, h, hl]

theorem anyUnloading_iff {s : State} : anyUnloading s = true ↔ ∃ k, (s.kilns.get k).state = .unloading := by
  simp only [anyUnloading, List.any_eq_true, decide_eq_true_eq]
  constructor
  · rintro ⟨kl, hmem, hstate⟩
    obtain ⟨k, rfl⟩ := Tab.exists_get_of_mem _ hmem
    exact ⟨k, hstate⟩
  · rintro ⟨k, hstate⟩
    exact ⟨_, Tab.mem_cells _ k, hstate⟩

theorem guarded_feeder {s : State} {a : Actuator} (h : a.function = .feeder) (v : Nat) :
    guarded s a v = permitted s.itk.permit s.mgu.config.feederSlow (min v 1000) := by
  simp [guarded, h]

theorem guarded_pressCharge {s : State} {a : Actuator} (h : a.function = .pressCharge) (v : Nat) :
    guarded s a v = permitted s.pru.permit s.mgu.config.pressSlow (min v 1000) := by
  simp [guarded, h]

theorem guarded_unloadConveyor {s : State} {a : Actuator} (h : a.function = .unloadConveyor) (v : Nat) :
    guarded s a v = if anyUnloading s then min v 1000 else 0 := by
  simp [guarded, h]

theorem guarded_burner {s : State} {a : Actuator} (h : a.function = .burner) (v : Nat) : guarded s a v = burnerValue s a.kiln v := by
  simp [guarded, h]

theorem burnerValue_drying {s : State} {k : Fin 4} {i : Nat} (h : (s.kilns.get k).state = .drying i) (v : Nat) :
    burnerValue s k v = min v (s.kfr.setups.get k).ceiling := by
  simp [burnerValue, h]

theorem burnerValue_other {s : State} {k : Fin 4} (h : ∀ i, (s.kilns.get k).state ≠ .drying i) (v : Nat) : burnerValue s k v = 0 := by
  unfold burnerValue
  split
  · exact absurd (by assumption) (h _)
  · rfl

/-- Settles O16: the frame's cases by the guard's value, and the guard's value by the entry's function. -/
theorem passingCommandsAreGuarded : Obligations.PassingCommandsAreGuarded := by
  refine ⟨fun f s hkind hown => ?frame, fun s a v => ?value⟩
  case frame =>
    have hexec : exec (.commandFrame f) s = .next (startPortB (passCommand f (taken s))) := by
      show Host.Outcome.next (takeFrame (kindIs f 3) f (passCommand f) s) = _
      rw [hkind, takeFrame_handled hown]
    rw [hexec]
    refine ⟨fun hmode => ?_, fun hmode hlen => ?_, fun hmode hlen => ⟨fun hentry => ?_, fun a hentry => ⟨fun hsame => ?_, fun hne => ?_⟩⟩⟩
    · rw [passCommand_transparent (s := taken s) hmode]
    · rw [passCommand_badLength (s := taken s) hmode hlen]
    · rw [passCommand_started (s := taken s) hmode hlen, guardValue_unmatched (s := taken s) hentry, withValue_same]
    · have hv : guarded (taken s) a (field f.payload 1 2) = field f.payload 1 2 := hsame
      rw [passCommand_started (s := taken s) hmode hlen, guardValue_matched (s := taken s) hmode hentry, if_pos hv, withValue_same]
    · have hv : guarded (taken s) a (field f.payload 1 2) ≠ field f.payload 1 2 := hne
      rw [passCommand_started (s := taken s) hmode hlen, guardValue_matched (s := taken s) hmode hentry, if_neg hv, withValue,
        if_neg hv]
      rfl
  case value =>
    refine ⟨fun h => ?feeder, fun h => ?charge, fun h k hk => ?burner, fun h => ?diverter, fun h => ?conveyor, ?rest⟩
    case feeder =>
      rw [guarded_feeder h]
      exact ⟨fun hp => by rw [hp]; rfl, fun hp => by rw [hp]; rfl, fun hp => by rw [hp]; rfl⟩
    case charge =>
      rw [guarded_pressCharge h]
      exact ⟨fun hp => by rw [hp]; rfl, fun hp => by rw [hp]; rfl, fun hp => by rw [hp]; rfl⟩
    case burner =>
      rw [guarded_burner h, hk]
      exact ⟨fun ⟨_, hi⟩ => burnerValue_drying hi v, fun hi => burnerValue_other hi v⟩
    case diverter =>
      exact ⟨fun hd => by simp [guarded, h, hd], fun k hd => by simp [guarded, h, hd]⟩
    case conveyor =>
      rw [guarded_unloadConveyor h]
      exact ⟨fun hk => if_pos (anyUnloading_iff.2 hk), fun hk => if_neg fun ha => (anyUnloading_iff.1 ha).elim hk⟩
    case rest =>
      rintro (h | h) <;> simp [guarded, h]

/-! ### Frames heard, dropped, removed, forwarded (R164 to R167, R172) -/

theorem forward_room {s : State} (h : s.rlu.passBuffer.length < 2) (f : Frame) :
    forward f s = withCounts (fun c => { c with forwarded := bump32 c.forwarded })
      (onRlu (fun b => { b with passBuffer := b.passBuffer ++ [f] }) s) := if_pos h

theorem forward_full {s : State} (h : 2 ≤ s.rlu.passBuffer.length) (f : Frame) :
    forward f s = postEvent .passOverflow (detailContext f.src.toNat)
      (withCounts (fun c => { c with roomDropped := bump32 c.roomDropped }) s) := if_neg (by omega)

/-- Settles O17: each row by the rule of a taken frame, and the forwarding by the room of the pass buffer. -/
theorem framesDroppedRemovedOrForwarded : Obligations.FramesDroppedRemovedOrForwarded := by
  refine ⟨fun s => ⟨fun hvalid => ?_, fun hvalid => ?_, rfl, rfl⟩, fun bytes s => ⟨fun hbad => ?_, fun hgood => ?_⟩,
    fun f s => ⟨fun hown => ?_, fun hown hpass => ?_, fun hown hmark => ?_⟩, fun f s => ⟨fun hroom => ?_, fun hfull => ?_⟩⟩
  · simp [heard, onRlu, hvalid]
  · simp [heard, onRlu, hvalid]
  · show Host.Outcome.next (if frameBad bytes then _ else _) = _
    rw [if_pos hbad]
    rfl
  · show Host.Outcome.next (if frameBad bytes then _ else _) = _
    rw [if_neg (by simp [hgood])]
  · show Host.Outcome.next (takeFrame (fromOwn s f) f id s) = _
    rw [hown, takeFrame_own hown]
  · show Host.Outcome.next (takeFrame (onlyPasses s f) f (forward f) s) = _
    rw [hpass, takeFrame_handled hown]
  · show Host.Outcome.next (takeFrame (marksNothing f) f (forward f) s) = _
    rw [hmark, takeFrame_handled hown]
  · exact ⟨_, forward_room hroom f, rfl, rfl, rfl⟩
  · exact ⟨_, forward_full hfull f, rfl, rfl, rfl⟩

/-! ### The choice at a frame boundary (R168) -/

/-- A port B that stands idle is idle. -/
theorem onRlu_portB_none {s : State} (h : s.rlu.portB = none) : onRlu (fun b => { b with portB := none }) s = s := by
  show { s with rlu := { s.rlu with portB := none } } = s
  rw [← h]

theorem startPortB_busy {s : State} (h : s.rlu.portB ≠ none) : startPortB s = s := by
  simp [startPortB, h]

theorem startPortB_idle {s : State} (h : s.rlu.portB = none) : startPortB s = choose s := by
  simp [startPortB, h]

/-- Settles O18: the rows of the table are the branches of `choose`, taken with port B idle. -/
theorem choiceAtAFrameBoundary : Obligations.ChoiceAtAFrameBoundary := by
  intro s idleB
  have hexec : exec .frameBoundary s = .next (choose idleB) := rfl
  have hinserting : inserting idleB = inserting s := rfl
  have hlimit : starvationLimit idleB = starvationLimit s := rfl
  refine ⟨fun hp hi => ?_, fun f rest hp hi => ?_, fun f rest hp hi hlt => ?_, fun hp hi hle => ?_, fun hp hi => ?_,
    startPortB_busy, fun hb => ?_, fun hv => by simp [starvationLimit, hv], fun hv => by simp [starvationLimit, hv]⟩
  · have hp' : idleB.rlu.passBuffer = [] := hp
    simp [hexec, choose, hp', hinserting, hi]
  · have hp' : idleB.rlu.passBuffer = f :: rest := hp
    exact ⟨sendThrough f rest 0 idleB, by simp [hexec, choose, hp', hinserting, hi], rfl⟩
  · have hp' : idleB.rlu.passBuffer = f :: rest := hp
    have hlt' : idleB.rlu.starvation < starvationLimit idleB := hlt
    exact ⟨sendThrough f rest (s.rlu.starvation + 1) idleB, by simp [hexec, choose, hp', hinserting, hi, hlt']; rfl, rfl⟩
  · obtain ⟨f, rest, hp⟩ := List.exists_cons_of_ne_nil hp
    have hp' : idleB.rlu.passBuffer = f :: rest := hp
    have hle' : ¬ idleB.rlu.starvation < starvationLimit idleB := not_lt.2 hle
    simp [hexec, choose, hp', hinserting, hi, hle']
  · have hp' : idleB.rlu.passBuffer = [] := hp
    simp [hexec, choose, hp', hinserting, hi]
  · rw [startPortB_idle hb, hexec]
    exact congrArg (fun t => Host.Outcome.next (choose t)) (onRlu_portB_none hb)

/-! ### Insertion (R169) -/

/-- The guard's value of a command inserted: that received in transparent mode or with no entry, else as the entry rewrites it. -/
theorem guardValue_value (n m v : Nat) (s : State) :
    ((started s = false ∨ guardEntry s n m = none) → (guardValue n m v s).1 = v) ∧
    ∀ a, started s = true → guardEntry s n m = some a → (guardValue n m v s).1 = guarded s a v := by
  refine ⟨?_, fun a hmode hentry => ?_⟩
  · rintro (h | h)
    · rw [guardValue_transparent h]
    · rw [guardValue_unmatched h]
  · rw [guardValue_matched hmode hentry]
    split
    · rename_i h; exact h.symm
    · rfl

/-- The guard changes the count of rewritten values of the ring link at most. -/
theorem guardValue_rlu (n m v : Nat) (s : State) :
    ∃ r, (guardValue n m v s).2.rlu = { s.rlu with counts := { s.rlu.counts with rewritten := r } } := by
  unfold guardValue
  split
  · split
    · exact ⟨_, rfl⟩
    · split
      · exact ⟨_, rfl⟩
      · exact ⟨_, rfl⟩
  · exact ⟨_, rfl⟩

/-- Settles O19: the branches of `insertFrame`, one for each queue that is the first not empty. -/
theorem insertionInTheFixedOrder : Obligations.InsertionInTheFixedOrder := by
  intro s
  refine ⟨fun c rest hc => ?command, fun r rest hc hr => ?reply, fun r rest hc hr hp => ?report, fun seg hc hr hp hs => ?segment⟩
  case command =>
    have hinsert : insertFrame s = insertCommand c rest s := by simp [insertFrame, hc]
    let taken := onRlu (fun b => { b with commands := rest }) s
    obtain ⟨hfree, hmatched⟩ := guardValue_value c.node c.number c.value taken
    obtain ⟨r, hr⟩ := guardValue_rlu c.node c.number c.value taken
    have hbyte : ownByte (guardValue c.node c.number c.value taken).2 = ownByte s := by
      unfold ownByte ownAddress
      rw [hr]
      rfl
    refine ⟨_, withCounts (fun n => { n with commandsInserted := bump32 n.commandsInserted })
      (guardValue c.node c.number c.value taken).2, ?_, ?_, ?_, ?_, ?_, ?_, hfree, hmatched⟩
    · rw [hinsert, ← hbyte]
      rfl
    all_goals
      simp only [withCounts, rlu_onRlu, hr]
      rfl
  case reply =>
    have hinsert : insertFrame s = insertReply r rest s := by simp [insertFrame, hc, hr]
    exact ⟨_, hinsert, rfl, rfl, rfl⟩
  case report =>
    have hinsert : insertFrame s = insertReport r rest s := by simp [insertFrame, hc, hr, hp]
    exact ⟨_, hinsert, rfl, rfl⟩
  case segment =>
    have hinsert : insertFrame s = insertSegment seg s := by simp [insertFrame, hc, hr, hp, hs]
    exact ⟨_, onTku (fun b => { b with
        credits := b.credits - 1
        queue := b.queue.map (fun t => if t.serial = seg.serial then advanced t else t) })
      (withCounts (fun n => { n with ticketsInserted := bump32 n.ticketsInserted }) (withdraw (useFreeValue s))),
      hinsert, rfl, rfl, rfl⟩

/-! ### Posting and occurrences (R165, R170, R171, R185) -/

theorem commandActuator_iff {c d : Command} : (c.node = d.node ∧ c.number = d.number) ↔ commandActuator c = commandActuator d := by
  simp [commandActuator]

/-- A command for an actuator that no waiting command names joins the tail. -/
theorem enqueueCommand_new {c : Command} {qs : List Command} (h : ∀ d ∈ qs, commandActuator d ≠ commandActuator c) :
    enqueueCommand c qs = qs ++ [c] := by
  induction qs with
  | nil => rfl
  | cons q qs ih =>
    have hq : ¬ (q.node = c.node ∧ q.number = c.number) := fun e => h q List.mem_cons_self (commandActuator_iff.1 e)
    rw [enqueueCommand, if_neg hq, ih fun d hd => h d (List.mem_cons_of_mem q hd)]
    rfl

/-- A command for an actuator that a waiting command names takes its place. -/
theorem enqueueCommand_replaces {c d : Command} {l r : List Command} (h : ∀ x ∈ l, commandActuator x ≠ commandActuator c)
    (hd : commandActuator d = commandActuator c) : enqueueCommand c (l ++ d :: r) = l ++ c :: r := by
  induction l with
  | nil => exact if_pos (commandActuator_iff.2 hd)
  | cons q l ih =>
    have hq : ¬ (q.node = c.node ∧ q.number = c.number) := fun e => h q List.mem_cons_self (commandActuator_iff.1 e)
    rw [List.cons_append, enqueueCommand, if_neg hq, ih fun x hx => h x (List.mem_cons_of_mem q hx)]
    rfl

theorem postCommand_ok {s : State} (h : strapOk s = true) (c : Command) :
    postCommand c s = onRlu (fun b => { b with commands := enqueueCommand c b.commands }) s := if_pos h

theorem postReply_ok {s : State} (h : strapOk s = true) (r : Reply) :
    postReply r s = if s.rlu.replies.length < 8 then onRlu (fun b => { b with replies := b.replies ++ [r] }) s
      else withCounts (fun c => { c with repliesDiscarded := bump32 c.repliesDiscarded }) s := if_pos h

theorem postReport_ok {s : State} (h : strapOk s = true) (r : Report) :
    postReport r s = if s.rlu.reports.length < 8 then onRlu (fun b => { b with reports := b.reports ++ [r] }) s
      else withCounts (fun c => { c with reportsDiscarded := bump32 c.reportsDiscarded }) s := if_pos h

/-- The cell of an occurrence taken, before any report is posted. -/
def occurred (kind : EventKind) (s : State) : State :=
  onMgu (fun b => { b with
    events := b.events.set (EventKind.index kind) (countOccurrence (s.mgu.events.get (EventKind.index kind))) }) s

theorem postEvent_unreported {kind : EventKind} {s : State} (h : (s.mgu.events.get (EventKind.index kind)).flag = true ∨
    (s.mgu.events.get (EventKind.index kind)).enable = false ∨ s.mgu.reportDest = none) (ctx : Context) :
    postEvent kind ctx s = occurred kind s := by
  unfold postEvent
  dsimp only
  split
  · rfl
  · rename_i d hd
    rw [if_neg]
    · rfl
    · rcases h with h | h | h <;> simp_all

theorem postEvent_reported {kind : EventKind} {s : State} {d : Nat} (hflag : (s.mgu.events.get (EventKind.index kind)).flag = false)
    (henable : (s.mgu.events.get (EventKind.index kind)).enable = true) (hd : s.mgu.reportDest = some d) (ctx : Context) :
    postEvent kind ctx s =
      postReport ⟨d, kind, min 255 ((s.mgu.events.get (EventKind.index kind)).count + 1), ctx⟩ (occurred kind s) := by
  simp [postEvent, hflag, henable, hd]
  rfl

theorem mgu_postReport (r : Report) (s : State) : (postReport r s).mgu = s.mgu := by
  unfold postReport
  split
  · split <;> rfl
  · rfl

/-- A posted occurrence changes the kind's event cell alone of the management unit. -/
theorem mgu_postEvent (kind : EventKind) (ctx : Context) (s : State) : (postEvent kind ctx s).mgu = (occurred kind s).mgu := by
  unfold postEvent
  dsimp only
  split
  · rfl
  · split
    · exact mgu_postReport _ _
    · rfl

/-- What a report posted does to the ring link is a matter of the ring link alone. -/
theorem rlu_postReport {s t : State} (h : s.rlu = t.rlu) (r : Report) : (postReport r s).rlu = (postReport r t).rlu := by
  have hstrap : strapOk s = strapOk t := by rw [strapOk, strapOk, ownAddress, ownAddress, h]
  unfold postReport
  rw [hstrap, h]
  split
  · split <;> simp [withCounts, h]
  · exact h

/-- Settles O20: the queues by the cases of posting, the occurrence by whether it is reported. -/
theorem postingToTheQueuesAndOccurrences : Obligations.PostingToTheQueuesAndOccurrences := by
  refine ⟨fun s => ⟨fun hok c => ⟨fun hnew => ?_, fun l d r hq hl hd => ?_⟩, fun hok r => ⟨fun hroom => ?_, fun hfull => ?_⟩,
    fun hok r => ⟨fun hroom => ?_, fun hfull => ?_⟩, fun hbad => ?_⟩, fun kind ctx s => ?occurrence⟩
  · rw [postCommand_ok hok]
    exact enqueueCommand_new hnew
  · rw [postCommand_ok hok, rlu_onRlu, hq]
    exact enqueueCommand_replaces hl hd
  · rw [postReply_ok hok, if_pos hroom]
    rfl
  · rw [postReply_ok hok, if_neg (not_lt.2 hfull)]
    exact ⟨rfl, rfl⟩
  · rw [postReport_ok hok, if_pos hroom]
    rfl
  · rw [postReport_ok hok, if_neg (not_lt.2 hfull)]
    exact ⟨rfl, rfl⟩
  · simp [postCommand, postReply, postReport, hbad]
  case occurrence =>
    intro e t
    have hevents : t.mgu.events = s.mgu.events.set (EventKind.index kind) (countOccurrence e) :=
      congrArg Mgu.events (mgu_postEvent kind ctx s)
    refine ⟨?_, fun i hi => ?_, fun hnone => ?_, fun hflag henable d hd => ?_⟩
    · rw [hevents, Tab.get_set_self]
      rfl
    · rw [hevents, Tab.get_set_ne _ _ hi.symm]
    · rw [show t = occurred kind s from postEvent_unreported hnone ctx]
      rfl
    · rw [show t = _ from postEvent_reported hflag henable hd ctx]
      exact rlu_postReport (s := occurred kind s) (t := s) rfl _

/-! ### Ring restart (R18, R88, R149, R176) -/

/-- The oldest unsent ticket of a rewound queue is its head. -/
theorem oldestUnsent_rewound {s : State} {q : List Ticket} (h : s.tku.queue = q.map rewound) :
    oldestUnsent s = q.head?.map rewound := by
  unfold oldestUnsent
  rw [h]
  cases q <;> rfl

/-- What the CREDIT-EXHAUSTED test with no credits and a clear indicator does to the ticket unit (R142). -/
theorem exhaustedTest_tku {s : State} (hcredits : s.tku.credits = 0) (hclear : s.tku.exhausted = false) :
    (exhaustedTest s).tku = { s.tku with exhausted := s.tku.run && (oldestUnsent s).isSome } := by
  unfold exhaustedTest
  rw [if_neg (by omega)]
  have hsame : s.tku = { s.tku with exhausted := false } := by rw [← hclear]
  cases oldestUnsent s with
  | none => simpa using hsame
  | some t =>
    cases hrun : s.tku.run with
    | true => simp [hclear, tku_postEvent, hrun]
    | false => simpa [hrun] using hsame

theorem restartTickets_tku (s : State) : (restartTickets s).tku =
    { s.tku with queue := s.tku.queue.map rewound, credits := 0, exhausted := s.tku.run && !s.tku.queue.isEmpty } := by
  unfold restartTickets
  rw [exhaustedTest_tku rfl rfl, oldestUnsent_rewound rfl]
  cases h : s.tku.queue <;> simp [h]

/-- The link emptied by a RESTART frame, with that frame forwarded (R176). -/
def linkRestarted (f : Frame) (s : State) : State :=
  withCounts (fun c => { c with forwarded := bump32 c.forwarded, restartsTaken := bump32 c.restartsTaken })
    (onRlu (fun b => { b with
      passBuffer := [f], commands := [], replies := [], reports := [], slot := none, starvation := 0 }) s)

/-- The ring restart: the link emptied, then the blocks' restarts in an open order (R176, log 14). -/
theorem ringRestart_spec (f : Frame) (s : State) : ∃ order : List RestartBlock, order.Perm [.tku, .smn, .rct] ∧
    ringRestart f s = order.foldl restartBlock { linkRestarted f s with sched := (linkRestarted f s).sched.tail } := by
  have hforward : forward f (emptyLink (withCounts (fun c => { c with restartsTaken := bump32 c.restartsTaken }) s)) =
      linkRestarted f s := forward_room (by decide : ([] : List Frame).length < 2) f
  obtain ⟨order, hperm, hchosen⟩ := inChosenOrder_spec [RestartBlock.tku, .smn, .rct] (linkRestarted f s)
  refine ⟨order, hperm, ?_⟩
  dsimp only [ringRestart]
  rw [hforward, hchosen]

/-- Settles O21: the ring restart's link by the definitions, its order by the open choice, and each block's own restart. -/
theorem restartFramesBringTheRingRestart : Obligations.RestartFramesBringTheRingRestart := by
  refine ⟨fun f s hkind hown => ?frame, fun s => ⟨rfl, rfl, rfl, ?tickets, rfl, ?channels⟩⟩
  case frame =>
    have hexec : exec (.restart f) s =
        .next (startPortB (if bringsRestart s f then ringRestart f (taken s) else forward f (taken s))) := by
      show Host.Outcome.next (takeFrame (kindIs f 8) f _ s) = _
      rw [hkind, takeFrame_handled hown]
      rfl
    rw [hexec]
    refine ⟨fun hno => by rw [if_neg (by simp [hno])], fun hyes => ?_⟩
    rw [if_pos hyes]
    obtain ⟨order, hperm, hrestart⟩ := ringRestart_spec f (taken s)
    rw [hrestart]
    refine ⟨order, _, hperm, rfl, ?_⟩
    simp [SameBooks, linkRestarted, withCounts, taken, heard, bump32, sat32]
  case tickets =>
    rw [restartTickets_tku]
    exact ⟨rfl, rfl, rfl, rfl, rfl⟩
  case channels =>
    obtain ⟨hmem, hnodup⟩ := leavingNotices_spec s.clock (fun i => (s.channels.get i).valid) s
    refine ⟨_, _, rfl, fun i => ?_, fun n hn => (hmem n).1 hn, hnodup, fun i hvalid hstate => ?_⟩
    · rw [channels_setChannels, Tab.get_map]
      rfl
    · exact ⟨_, (hmem _).2 ⟨i, hvalid, hstate, rfl⟩, rfl⟩

end Sys2Proof.Machine
end

section
/-! Deadlines on the station clock, the samples that channels take (chapter 1), and what the consumers do on a notice. -/

namespace Sys2Proof.Machine

/-! ### Deadlines -/

theorem atDeadline_waits {b : Bool} (h : b = false) (act : State → State) (s : State) :
    (.next (atDeadline b act s) : Host.Outcome State Fault Refusal) = .next s := by
  rw [h]
  rfl

theorem atDeadline_reached {b : Bool} (h : b = true) (act : State → State) (s : State) :
    (.next (atDeadline b act s) : Host.Outcome State Fault Refusal) = .next (startPortB (act s)) := by
  rw [h]
  rfl

/-- The silence of port A is past the timeout (R172). -/
theorem silencePassed_of {s : State} {t : Time} (hvalid : s.mgu.configValid = true) (hquiet : s.rlu.silence = false)
    (hfrom : s.rlu.silenceFrom = some t) (hpast : s.mgu.config.idleTimeout < elapsed t s.clock) : silencePassed s = true := by
  simp [silencePassed, hvalid, hquiet, hfrom, hpast]

/-- Settles O22: a deadline row acts when its test holds, and has no effect when it does not. -/
theorem deadlinesWaitForTheirTimeAndPost : Obligations.DeadlinesWaitForTheirTimeAndPost := by
  refine ⟨fun s => ⟨fun _ h => atDeadline_waits h _ s, fun h => atDeadline_waits h _ s, fun _ h => atDeadline_waits h _ s,
    fun _ h => atDeadline_waits h _ s, fun h => atDeadline_waits h _ s, fun h => atDeadline_waits h _ s,
    fun _ h => atDeadline_waits h _ s, fun h => atDeadline_waits h _ s, fun h => atDeadline_waits h _ s,
    fun h => atDeadline_waits h _ s⟩, fun s => ⟨fun t hvalid hquiet hfrom hpast => ?silence, fun hsecond => ?second,
    fun k d hstate hoverdry hreached => ?overdry, fun g d hgrant hoverrun hreached => ?overrun⟩⟩
  case silence =>
    have hpassed := silencePassed_of hvalid hquiet hfrom hpast
    refine (atDeadline_reached hpassed _ s).trans ?_
    rw [silenceTest, if_pos hpassed]
  case second => exact atDeadline_reached hsecond nextSecondOfDay s
  case overdry =>
    have hdue : overdryDue s k = true := by simp [overdryDue, hstate, hoverdry, due, hreached]
    exact atDeadline_reached hdue (overdryReached k) s
  case overrun =>
    have hdue : overrunDue s = true := by simp [overrunDue, hgrant, hoverrun, due, hreached]
    refine (atDeadline_reached hdue (withGrant unloadOverrun) s).trans ?_
    rw [withGrant, hgrant]
    rfl

/-! ### The entries of a SAMPLE frame (R6, R7) -/

theorem field_zero_one (b : Byte) (bs : List Byte) : field (b :: bs) 0 1 = b.toNat := by
  simp [field, beNat]

/-- An entry is read from its own five bytes alone. -/
theorem sampleEntry_append {e : List Byte} (h : e.length = 5) (bs : List Byte) : sampleEntry (e ++ bs) = sampleEntry e := by
  match e, h with
  | [_, _, _, _, _], _ => rfl

theorem sampleEntriesOf_flatten (es : List (List Byte)) (h : ∀ e ∈ es, e.length = 5) :
    sampleEntriesOf es.length es.flatten = es.map sampleEntry := by
  induction es with
  | nil => rfl
  | cons e es ih =>
    have he : e.length = 5 := h e List.mem_cons_self
    have hdrop : (e ++ es.flatten).drop 5 = es.flatten := by rw [← he, List.drop_left]
    rw [List.length_cons, List.flatten_cons, sampleEntriesOf, sampleEntry_append he, hdrop,
      ih fun x hx => h x (List.mem_cons_of_mem e hx), List.map_cons]

theorem length_flatten_of_five {es : List (List Byte)} (h : ∀ e ∈ es, e.length = 5) : es.flatten.length = 5 * es.length := by
  rw [List.length_flatten, List.map_congr_left h, List.map_const', List.sum_replicate, smul_eq_mul, Nat.mul_comm]

/-- Three bytes read as a signed number are the two's complement value of the 24 bits. -/
theorem beInt_three (x y z : Byte) : beInt [x, y, z] = BitVec.toInt (x ++ y ++ z) := by
  have hnat : beNat [x, y, z] = (x ++ y ++ z).toNat := by
    have hx := x.isLt
    have hy := y.isLt
    have hz := z.isLt
    simp only [BitVec.toNat_append, beNat, List.foldl_cons, List.foldl_nil]
    rw [← Nat.shiftLeft_add_eq_or_of_lt hy, ← Nat.shiftLeft_add_eq_or_of_lt hz, Nat.shiftLeft_eq, Nat.shiftLeft_eq]
    omega
  simp only [beInt, BitVec.toInt_eq_toNat_cond, hnat, List.length_cons, List.length_nil]
  norm_num

/-- Settles O23: the entries by induction on their list, and the signed field by its 24 bits. -/
theorem sampleFramesAreReadAndForwarded : Obligations.SampleFramesAreReadAndForwarded := by
  refine ⟨fun f s hkind hown => ?_, fun es hlow hhigh hlen => ?_, fun payload hbad => ?_, fun c x y z st => ?_⟩
  · show Host.Outcome.next (takeFrame (kindIs f 1) f (fun s => forward f (readSample f s)) s) = _
    rw [hkind, takeFrame_handled hown]
    rfl
  · have hcount : field (BitVec.ofNat 8 es.length :: es.flatten) 0 1 = es.length := by
      rw [field_zero_one, BitVec.toNat_ofNat, Nat.mod_eq_of_lt (by omega)]
    simp only [sampleEntries, hcount]
    rw [if_pos ⟨hlow, hhigh, by rw [List.length_cons, length_flatten_of_five hlen]; omega⟩]
    exact sampleEntriesOf_flatten es hlen
  · exact if_neg (by omega)
  · show SampleEntry.mk (field [c, x, y, z, st] 0 1) (beInt [x, y, z]) _ _ = _
    rw [field_zero_one, beInt_three]
    rfl

/-! ### Arrivals, stale channels and notices (R8 to R16) -/

theorem matching_none {s : State} {source channel : Nat} (h : ∀ i, (s.channels.get i).valid = true →
    (s.channels.get i).sourceNode = source → (s.channels.get i).sourceChannel ≠ channel) : matching s source channel = none := by
  simp only [matching, Tab.lowest?, List.find?_eq_none, Bool.and_eq_true, decide_eq_true_eq, not_and]
  exact fun i _ hvalid hnode => h i hvalid hnode

theorem takeEntry_matched {s : State} {source : Nat} {e : SampleEntry} {i : Fin 64} (h : matching s source e.channel = some i) :
    takeEntry source s e = if e.fault then faultArrival i s else goodArrival i e s := by
  simp [takeEntry, h]

theorem clampInt_cases (lo hi v : Int) :
    (v < lo → clampInt lo hi v = lo) ∧ (lo ≤ v → hi < v → clampInt lo hi v = hi) ∧ (lo ≤ v → v ≤ hi → clampInt lo hi v = v) := by
  unfold clampInt
  refine ⟨fun h => if_pos h, fun h k => ?_, fun h k => ?_⟩
  · rw [if_neg (by omega), if_pos k]
  · rw [if_neg (by omega), if_neg (by omega)]

theorem faultArrival_again {i : Fin 64} {s : State} (h : (s.channels.get i).state = .fault) :
    faultArrival i s = setChannel i { s.channels.get i with lastArrival := some s.clock, staleDeadline := none } s := by
  have hsame : faulted (s.channels.get i) s.clock =
      { s.channels.get i with lastArrival := some s.clock, staleDeadline := none } := by
    rw [faulted, ← h]
  simp only [faultArrival]
  rw [if_pos h, hsame]

/-- Settles O24: the entry by its matching channel and its fault bit, and the notices by the open order of their consumers. -/
theorem sampleEntriesAndStaleChannels : Obligations.SampleEntriesAndStaleChannels := by
  refine ⟨fun source e s => ⟨fun hnone => ?none, fun i hi => ?matched⟩, fun i d s hlive hdeadline hreached => ?stale,
    fun n s => ?deliver, fun ns s => ?deliverAll⟩
  case none => simp [takeEntry, matching_none hnone]
  case matched =>
    intro c v
    rw [takeEntry_matched hi]
    refine ⟨fun hgood => ⟨clampInt c.low c.high v, ?_, clampInt_cases _ _ _⟩, fun hfault hstate => ?_, fun hfault hstate => ?_⟩
    · rw [if_neg (by simp [hgood])]
      rfl
    · rw [if_pos hfault, faultArrival_again hstate]
    · rw [if_pos hfault]
      exact if_neg hstate
  case stale =>
    have hdue : staleDue s i = true := by simp [staleDue, hlive, hdeadline, due, hreached]
    exact atDeadline_reached hdue (channelStale i) s
  case deliver =>
    obtain ⟨order, hperm, hchosen⟩ := inChosenOrder_spec consumers s
    refine ⟨order, s.sched.tail, hperm, ?_⟩
    rw [deliver, hchosen]
  case deliverAll =>
    obtain ⟨order, hperm, hchosen⟩ := inChosenOrder_spec (ns.flatMap (fun n => consumers.map (fun c => (n, c)))) s
    refine ⟨order, s.sched.tail, hperm, ?_⟩
    rw [deliverAll, hchosen]

/-! ### What the consumers do on a notice -/

theorem changesLive_iff {n : Notice} : changesLive n = true ↔ ¬ (n.before = .live ↔ n.after = .live) := by
  unfold changesLive
  by_cases hb : n.before = .live <;> by_cases ha : n.after = .live <;> simp [hb, ha]

theorem scaleOfEmpty_any {s : State} {c : Nat} : (List.finRange 4).any (scaleOfEmpty s c) = true ↔
    ∃ k, (setupOf s k).enabled = true ∧ (s.kilns.get k).state = .empty ∧ (setupOf s k).scale = c := by
  simp [scaleOfEmpty]

theorem movesFeed_iff {s : State} {n : Notice} : movesFeed s n = true ↔
    (s.mgu.configValid = true ∧ n.before ≠ n.after ∧
      (n.channel = s.mgu.config.beltLoad ∨ n.channel = s.mgu.config.beltSpeed)) ∨
    (¬ (n.before = .live ↔ n.after = .live) ∧
      ∃ k, (setupOf s k).enabled = true ∧ (s.kilns.get k).state = .empty ∧ (setupOf s k).scale = n.channel) := by
  simp only [movesFeed, Bool.or_eq_true, Bool.and_eq_true, decide_eq_true_eq, changesLive_iff, scaleOfEmpty_any, and_assoc]

theorem namedAsScale_iff {s : State} {c : Nat} : namedAsScale s c = true ↔ ∃ k, (setupOf s k).scale = c := by
  simp [namedAsScale]

theorem headScale_iff {s : State} {c : Nat} :
    headScale s c = true ↔ ∃ k rest, s.uar.requests = k :: rest ∧ (setupOf s k).scale = c := by
  unfold headScale
  cases s.uar.requests <;> simp

/-- The settle deadline of the grant record replaced. -/
theorem setSettle_granted {s : State} {g : Grant} (h : s.uar.grant = some g) (d : Option Time) :
    setSettle d s = onUar (fun b => { b with grant := some { g with settle := d } }) s := by
  simp [setSettle, onUar, h]

/-- The settle test of R95 leaves the grant record with one settle deadline or another. -/
theorem settleNotice_spec {s : State} {g : Grant} (h : s.uar.grant = some g) (n : Notice) :
    ∃ d : Option Time,
      let low := (n.value - (loadOf s g.kiln).tare).toNat ≤ s.mgu.config.emptyThreshold
      settleNotice g n s = onUar (fun b => { b with grant := some { g with settle := d } }) s ∧
      (n.arrival = true → low → g.settle = none → d = some (after n.time (1000 * s.mgu.config.unloadSettle))) ∧
      (n.arrival = true → low → g.settle ≠ none → d = g.settle) ∧ (n.arrival = true → ¬ low → d = none) ∧
      (n.arrival = false → n.before = .live → d = none) ∧ (n.arrival = false → n.before ≠ .live → d = g.settle) := by
  cases harrival : n.arrival with
  | true =>
    refine ⟨settleAfter s (n.value - (loadOf s g.kiln).tare).toNat n.time g.settle, ?_, fun _ hlow hnone => ?_,
      fun _ hlow hsome => ?_, fun _ hhigh => if_neg hhigh, nofun, nofun⟩
    · rw [settleNotice, if_pos harrival, setSettle_granted h]
    · exact (if_pos hlow).trans (by rw [hnone])
    · obtain ⟨d, hd⟩ := Option.ne_none_iff_exists'.1 hsome
      exact (if_pos hlow).trans (by rw [hd])
  | false =>
    by_cases hlive : n.before = .live
    · exact ⟨none, by simp [settleNotice, harrival, hlive, setSettle_granted h], nofun, nofun, nofun, fun _ _ => rfl,
        fun _ hno => absurd hlive hno⟩
    · refine ⟨g.settle, ?_, nofun, nofun, nofun, fun _ hyes => absurd hyes hlive, fun _ _ => rfl⟩
      have hsame : onUar (fun b => { b with grant := some { g with settle := g.settle } }) s = s := by
        show { s with uar := { s.uar with grant := some g } } = s
        rw [← h]
      simp [settleNotice, harrival, hlive, hsame]

theorem itkNotice_spec (n : Notice) (s : State) :
    let belt := n.arrival = true ∧ s.mgu.configValid = true ∧ n.channel = s.mgu.config.beltLoad
    ∃ u : State, (belt → u = beltArrival n.channel n.value n.time s) ∧ (¬ belt → u = s) ∧
      itkNotice n s = if movesFeed u n then decideFeed u else u := by
  intro belt
  have hbelt : (n.arrival && s.mgu.configValid && decide (n.channel = s.mgu.config.beltLoad)) = true ↔ belt := by
    simp only [Bool.and_eq_true, decide_eq_true_eq, and_assoc, belt]
  exact ⟨_, fun h => if_pos (hbelt.2 h), fun h => if_neg fun k => h (hbelt.1 k), rfl⟩

theorem kcNotice_spec (k : Fin 4) (n : Notice) (s : State) :
    (n.channel ≠ (setupOf s k).plenum → kcNotice k n s = s) ∧
    (n.channel = (setupOf s k).plenum →
      (n.arrival = true → ((setupOf s k).ceiling + s.mgu.config.overtempMargin : Int) < n.value →
        kcNotice k n s = holdKiln k ⟨false, true, false⟩ s) ∧
      (n.arrival = true → n.value ≤ ((setupOf s k).ceiling + s.mgu.config.overtempMargin : Int) → kcNotice k n s = s) ∧
      (n.arrival = false → n.before = .live → kcNotice k n s = holdKiln k ⟨true, false, false⟩ s) ∧
      (n.arrival = false → n.before ≠ .live → kcNotice k n s = s)) := by
  unfold kcNotice
  rw [Nat.cast_add]
  refine ⟨fun hc => if_neg hc, fun hc => ?_⟩
  rw [if_pos hc]
  refine ⟨fun ha hv => ?_, fun ha hv => ?_, fun ha hb => ?_, fun ha hb => ?_⟩
  · rw [if_pos ha, if_pos hv]
    rfl
  · rw [if_pos ha, if_neg (not_lt.2 hv)]
  · rw [if_neg (by simp [ha]), if_pos hb]
    rfl
  · rw [if_neg (by simp [ha]), if_neg hb]

/-- The UAR's present conveyor command changes nothing that its other tests read. -/
theorem conveyor_surroundings {s u : State} (h : Posted s u) :
    u.uar = s.uar ∧ u.kfr = s.kfr ∧ u.mgu.config = s.mgu.config := ⟨h.uar, h.kfr, by rw [h.mgu]⟩

theorem postPresentConveyor_eq (s : State) :
    (s.uar.grant = none → postPresentConveyor s = postConveyor 0 s) ∧
    (s.uar.grant ≠ none → postPresentConveyor s = postConveyor 1000 s) := by
  unfold postPresentConveyor
  cases s.uar.grant <;> simp

theorem uarNotice_spec (n : Notice) (s : State) :
    let back := n.before = .unseen ∧ n.after = .live ∧ ∃ k, (setupOf s k).scale = n.channel
    let heads := n.arrival = true ∧ ∃ k rest, s.uar.requests = k :: rest ∧ (setupOf s k).scale = n.channel
    ∃ u v : State,
      (back → s.uar.grant = none → u = postConveyor 0 s) ∧ (back → s.uar.grant ≠ none → u = postConveyor 1000 s) ∧
      (¬ back → u = s) ∧
      (s.uar.grant = none → v = u) ∧
      (∀ g, s.uar.grant = some g → (setupOf s g.kiln).scale ≠ n.channel → v = u) ∧
      (∀ g, s.uar.grant = some g → (setupOf s g.kiln).scale = n.channel → ∃ d : Option Time,
        let low := (n.value - (loadOf s g.kiln).tare).toNat ≤ s.mgu.config.emptyThreshold
        v = onUar (fun b => { b with grant := some { g with settle := d } }) u ∧
        (n.arrival = true → low → g.settle = none → d = some (after n.time (1000 * s.mgu.config.unloadSettle))) ∧
        (n.arrival = true → low → g.settle ≠ none → d = g.settle) ∧ (n.arrival = true → ¬ low → d = none) ∧
        (n.arrival = false → n.before = .live → d = none) ∧ (n.arrival = false → n.before ≠ .live → d = g.settle)) ∧
      (heads → uarNotice n s = grantTest v) ∧ (¬ heads → uarNotice n s = v) := by
  intro back heads
  have hback : (n.before = .unseen ∧ n.after = .live ∧ namedAsScale s n.channel = true) ↔ back := by
    rw [namedAsScale_iff]
  let u := if n.before = .unseen ∧ n.after = .live ∧ namedAsScale s n.channel = true then postPresentConveyor s else s
  have hposted : Posted s u := by
    show Posted s (if _ then _ else _)
    split
    · exact posted_postConveyor _ s
    · exact .refl s
  obtain ⟨huar, hkfr, hconfig⟩ := conveyor_surroundings hposted
  have hsetup : ∀ k, setupOf u k = setupOf s k := fun k => by rw [setupOf, setupOf, hkfr]
  let v := match u.uar.grant with
    | none   => u
    | some g => if (setupOf u g.kiln).scale = n.channel then settleNotice g n u else u
  have hunfold : uarNotice n s = if n.arrival && headScale v n.channel then grantTest v else v := rfl
  have hsettled : ∀ g, s.uar.grant = some g → v = if (setupOf s g.kiln).scale = n.channel then settleNotice g n u else u := by
    intro g hg
    simp only [v, huar, hg, hsetup]
  have hidle : s.uar.grant = none → v = u := fun hg => by simp only [v, huar, hg]
  have hv : v.uar.requests = s.uar.requests ∧ v.kfr = s.kfr := by
    cases hg : s.uar.grant with
    | none => rw [hidle hg]; exact ⟨by rw [huar], hkfr⟩
    | some g =>
      rw [hsettled g hg]
      split
      · obtain ⟨d, hd, -⟩ := settleNotice_spec (s := u) (by rw [huar, hg]) n
        rw [hd]
        exact ⟨by rw [uar_onUar, huar], hkfr⟩
      · exact ⟨by rw [huar], hkfr⟩
  have hheads : (n.arrival && headScale v n.channel) = true ↔ heads := by
    have hsv : ∀ k, setupOf v k = setupOf s k := fun k => by rw [setupOf, setupOf, hv.2]
    simp only [Bool.and_eq_true, headScale_iff, hv.1, hsv, heads]
  refine ⟨u, v, fun hb hg => ?_, fun hb hg => ?_, fun hb => if_neg fun h => hb (hback.1 h), hidle, fun g hg hs => ?_,
    fun g hg hs => ?_, fun h => by rw [hunfold, if_pos (hheads.2 h)], fun h => by rw [hunfold, if_neg fun k => h (hheads.1 k)]⟩
  · rw [← (postPresentConveyor_eq s).1 hg]
    exact if_pos (hback.2 hb)
  · rw [← (postPresentConveyor_eq s).2 hg]
    exact if_pos (hback.2 hb)
  · rw [hsettled g hg, if_neg hs]
  · obtain ⟨d, hd, hcases⟩ := settleNotice_spec (s := u) (by rw [huar, hg]) n
    refine ⟨d, by rw [hsettled g hg, if_pos hs, hd], ?_⟩
    rw [← hconfig, show loadOf s g.kiln = loadOf u g.kiln by rw [loadOf, loadOf, hkfr]]
    exact hcases

theorem pruNotice_spec (n : Notice) (s : State) :
    let valid := s.mgu.configValid = true
    let closes := valid ∧ n.channel = s.mgu.config.pressScale ∧ n.arrival = true ∧ n.settled = true ∧ s.pru.state = .weighing
    let charges := valid ∧ n.channel = s.mgu.config.pressCharge ∧ (n.arrival = true ∨ n.before ≠ n.after)
    ∃ u : State, (closes → u = closeBale n.value.toNat false s) ∧ (¬ closes → u = s) ∧
      (charges → pruNotice n s = decidePress u) ∧ (¬ charges → pruNotice n s = u) := by
  intro valid closes charges
  have hcharge : movesCharge n = true ↔ (n.arrival = true ∨ n.before ≠ n.after) := by simp [movesCharge]
  unfold pruNotice
  by_cases hvalid : s.mgu.configValid = true
  · rw [if_pos hvalid]
    exact ⟨_, fun h => if_pos h.2, fun h => if_neg fun k => h ⟨hvalid, k⟩,
      fun h => if_pos ⟨h.2.1, hcharge.2 h.2.2⟩, fun h => if_neg fun k => h ⟨hvalid, k.1, hcharge.1 k.2⟩⟩
  · rw [if_neg hvalid]
    exact ⟨s, fun h => absurd h.1 hvalid, fun _ => rfl, fun h => absurd h.1 hvalid, fun _ => rfl⟩

/-- Settles O25: one lemma for each consumer. -/
theorem noticesActOnTheirConsumers : Obligations.NoticesActOnTheirConsumers := by
  refine ⟨⟨fun n s => ?itk, fun n s => ?kfr, kcNotice_spec⟩, uarNotice_spec, pruNotice_spec⟩
  case itk =>
    intro belt moves
    obtain ⟨u, hbelt, hother, hnotice⟩ := itkNotice_spec n s
    exact ⟨u, hbelt, hother, fun h => by rw [hnotice, if_pos (movesFeed_iff.2 h)],
      fun h => by rw [hnotice, if_neg fun k => h (movesFeed_iff.1 k)]⟩
  case kfr =>
    intro moves
    have hmoves : (changesLive n && (List.finRange 4).any (scaleOfEmpty s n.channel)) = true ↔ moves := by
      rw [Bool.and_eq_true, changesLive_iff, scaleOfEmpty_any]
    exact ⟨fun h ha => by rw [kfrNotice, if_pos (hmoves.2 h), if_pos ha],
      fun h ha => by rw [kfrNotice, if_pos (hmoves.2 h), if_neg ha], fun h => if_neg fun k => h (hmoves.1 k)⟩

end Sys2Proof.Machine
end

section
/-! Marks, the intake and the filling (chapters 2 and 3): hooking, the transit list, the feed permit, the belt, the selection of a
kiln and the placing of a carry. -/

namespace Sys2Proof.Machine

/-! ### Lot records -/

theorem lotAt_setLot_self (i : Fin 32) (r : Option Lot) (s : State) : lotAt (setLot i r s) i = r := Tab.get_set_self _ i r

theorem modifyLot_live {s : State} {i : Fin 32} {l : Lot} (h : lotAt s i = some l) (f : Lot → Lot) :
    modifyLot i f s = setLot i (some (f l)) s := by
  rw [modifyLot, h]
  rfl

theorem lotNumberAt_live {s : State} {i : Fin 32} {l : Lot} (h : lotAt s i = some l) : lotNumberAt s (some i) = some l.number := by
  rw [lotNumberAt, h]
  rfl

/-! ### Marks (R26, R27, R94, R106, R109) -/

theorem fromNode_iff {s : State} {f : Frame} {node : Nat} :
    fromNode s f node = true ↔ started s = true ∧ s.mgu.configValid = true ∧ f.src.toNat = node := by
  simp only [fromNode, Bool.and_eq_true, decide_eq_true_eq, and_assoc]

/-- A mark of its row that its reader takes: the reader's act, then forwarded. -/
theorem mark_taken {b : Bool} {f : Frame} {s : State} {node : StationConfig → Nat} (h : MarkTaken s f node) (hb : b = true)
    (act : State → State) : (.next (takeFrame b f (handleMark f node act) s) : Host.Outcome State Fault Refusal) =
      .next (startPortB (forward f (act (taken s)))) := by
  obtain ⟨hmode, hvalid, hsrc, hown⟩ := h
  have hnode : fromNode (taken s) f (node (taken s).mgu.config) = true := fromNode_iff.2 ⟨hmode, hvalid, hsrc⟩
  rw [hb, takeFrame_handled hown, handleMark, if_pos hnode]

/-- A mark of its row that its reader passes over: only forwarded. -/
theorem mark_passed {b : Bool} {f : Frame} {s : State} {node : StationConfig → Nat} (hown : fromOwn s f = false)
    (h : MarkPassed s f node) (hb : b = true) (act : State → State) :
    (.next (takeFrame b f (handleMark f node act) s) : Host.Outcome State Fault Refusal) =
      .next (startPortB (forward f (taken s))) := by
  have hnode : ¬ fromNode (taken s) f (node (taken s).mgu.config) = true := by
    rw [fromNode_iff]
    rintro ⟨hmode, hvalid, hsrc⟩
    rcases h with h | h | h
    · exact Bool.false_ne_true (h.symm.trans hmode)
    · exact Bool.false_ne_true (h.symm.trans hvalid)
    · exact h hsrc
  rw [hb, takeFrame_handled hown, handleMark, if_neg hnode]

theorem takeHook_orphan {s : State} (h : s.itk.hookLot = none) :
    takeHook s = postEvent .orphanHook (lotContext none) s ∧ takeHookShort s = postEvent .orphanHook (lotContext none) s := by
  simp [takeHook, takeHookShort, h, orphanHook]

theorem countHook_live {s : State} {i : Fin 32} {l : Lot} (h : lotAt s i = some l) :
    countHook i s = setLot i (some { l with hooks := min (l.hooks + 1) 65535 }) s := modifyLot_live h _

theorem targetReached_live {s : State} {i : Fin 32} {l : Lot} (h : lotAt s i = some l) :
    targetReached s i = true ↔ l.hookTarget ≠ 0 ∧ l.hooks = l.hookTarget := by
  simp [targetReached, h]

/-- Settles O26: a mark is passed over or taken; taken, it acts by the state of the hook lot or of the press. -/
theorem hookAndPressMarks : Obligations.HookAndPressMarks := by
  refine ⟨fun f s hown => ⟨fun hp => ⟨fun hm => mark_passed hown hp hm _, fun hm => mark_passed hown hp hm _⟩,
    fun hp => ⟨fun hm => mark_passed hown hp hm _, fun hm => mark_passed hown hp hm _, fun hm => mark_passed hown hp hm _⟩,
    fun hp hm => mark_passed hown hp hm _⟩, fun f s ht => ⟨fun hnone => ?orphan, fun slot l hlot hl => ?hook⟩,
    fun f s ht => ⟨fun hm => ⟨fun hst => ?charge, fun hst => ?chargeIgnored⟩, fun hm => ⟨fun hst => ?cycle, fun hst => ?cycleIgnored⟩,
      fun hm => ⟨fun hst => ?tied, fun hst => ?tiedIgnored⟩⟩⟩
  case orphan =>
    obtain ⟨hhook, hshort⟩ := takeHook_orphan (s := taken s) hnone
    exact ⟨fun hm => (mark_taken ht hm takeHook).trans (by rw [hhook]),
      fun hm => (mark_taken ht hm takeHookShort).trans (by rw [hshort])⟩
  case hook =>
    intro counted
    have hlot' : (taken s).itk.hookLot = some slot := hlot
    have hcount : countHook slot (taken s) = counted := countHook_live (s := taken s) hl
    have htarget := targetReached_live (s := counted) (lotAt_setLot_self slot _ (taken s))
    refine ⟨fun hm => (mark_taken ht hm takeHookShort).trans ?_, fun hm => ⟨fun hne heq => ?_, fun hno => ?_⟩⟩
    · simp only [takeHookShort, hlot', hcount]
    · refine (mark_taken ht hm takeHook).trans ?_
      simp only [takeHook, hlot', hcount]
      rw [if_pos (htarget.2 ⟨hne, heq⟩)]
    · refine (mark_taken ht hm takeHook).trans ?_
      simp only [takeHook, hlot', hcount]
      rw [if_neg fun h => hno.elim (htarget.1 h).1 fun h' => h' (htarget.1 h).2]
  case charge => exact (mark_taken ht hm takeChargeStart).trans (by rw [takeChargeStart, if_pos (show (taken s).pru.state = _ from hst)]; rfl)
  case chargeIgnored => exact (mark_taken ht hm takeChargeStart).trans (by rw [takeChargeStart, if_neg (show ¬ (taken s).pru.state = _ from hst)])
  case cycle => exact (mark_taken ht hm takePressCycle).trans (by rw [takePressCycle, if_pos (show (taken s).pru.state = _ from hst)]; rfl)
  case cycleIgnored => exact (mark_taken ht hm takePressCycle).trans (by rw [takePressCycle, if_neg (show ¬ (taken s).pru.state = _ from hst)])
  case tied => exact (mark_taken ht hm takeBaleTied).trans (by rw [takeBaleTied, if_pos (show (taken s).pru.state = _ from hst)]; rfl)
  case tiedIgnored => exact (mark_taken ht hm takeBaleTied).trans (by rw [takeBaleTied, if_neg (show ¬ (taken s).pru.state = _ from hst)])

/-! ### Hooking (R25, R29, R32) -/

theorem hookingTest_idle {s : State} (h : started s = false ∨ s.itk.hookLot ≠ none ∨ s.itk.queue = []) : hookingTest s = s := by
  unfold hookingTest
  split
  · rename_i hopen
    simp only [Bool.and_eq_true, Option.isNone_iff_eq_none] at hopen
    rcases h with h | h | h
    · exact absurd hopen.1 (by simp [h])
    · exact absurd hopen.2 h
    · simp [h]
  · rfl

/-- The hooking start test with a lot queued: started with room in the transit list, else deferred (R25, R32). -/
theorem hookingTest_queued {s : State} {slot : Fin 32} {rest : List (Fin 32)} (hmode : started s = true)
    (hnone : s.itk.hookLot = none) (hqueue : s.itk.queue = slot :: rest) :
    hookingTest s = if s.itk.transit.length < 4 then startHooking slot rest s
      else transitFull (deferralHeld s) (onItk (fun b => { b with deferred := true }) s) := by
  simp [hookingTest, hmode, hnone, hqueue]

theorem startHooking_live {s : State} {slot : Fin 32} {l : Lot} (h : lotAt s slot = some l) (rest : List (Fin 32)) :
    startHooking slot rest s = selectKiln (onItk (fun b => { b with
      lots := b.lots.set slot (some { l with state := .hooking }), queue := rest, hookLot := some slot, deferred := false
      boundary := false, transit := b.transit ++ [⟨some slot, after s.clock (1000 * s.mgu.config.transitDelay)⟩] }) s) := by
  rw [startHooking, modifyLot_live h]
  rfl

theorem deferralHeld_iff {s : State} : deferralHeld s = true ↔ s.itk.deferred = true ∨ s.itk.boundary = true := by
  simp [deferralHeld]

theorem deferralHeld_false {s : State} (hd : s.itk.deferred = false) (hb : s.itk.boundary = false) : deferralHeld s = false := by
  simp [deferralHeld, hd, hb]

theorem endHooking_live {s : State} {slot : Fin 32} {l : Lot} (h : lotAt s slot = some l) :
    endHooking slot s =
      let ended := onItk (fun b => { b with hookLot := none }) (setLot slot (some (endedHooking (validTime s) l)) s)
      decideFeed (if ended.itk.queue.isEmpty then appendBoundary ended else hookingTest ended) := by
  rw [endHooking, modifyLot_live h]

/-- Settles O27: the start by the room of the transit list, the end by the queue and that room. -/
theorem hookingStartsAndEnds : Obligations.HookingStartsAndEnds := by
  refine ⟨fun s => ⟨hookingTest_idle, fun slot rest hmode hnone hqueue l hl => ?start⟩, fun slot l s hl => ?ends⟩
  case start =>
    intro deferred
    rw [hookingTest_queued hmode hnone hqueue]
    refine ⟨fun hroom => ?_, fun hfull hheld => ?_, fun hfull hd hb => ?_⟩
    · rw [if_pos hroom, startHooking_live hl]
    · rw [if_neg (not_lt.2 hfull), deferralHeld_iff.2 hheld]
      rfl
    · have hhead : lotNumberAt deferred deferred.itk.queue.head? = some l.number := by
        rw [show deferred.itk.queue = slot :: rest from hqueue]
        exact lotNumberAt_live (s := deferred) hl
      rw [if_neg (not_lt.2 hfull), deferralHeld_false hd hb, ← hhead]
      rfl
  case ends =>
    intro ended held
    have hend : endHooking slot s = decideFeed (if ended.itk.queue.isEmpty then appendBoundary ended else hookingTest ended) :=
      endHooking_live hl
    have hqueue : ended.itk.queue = s.itk.queue := rfl
    rw [hend, hqueue]
    refine ⟨fun hne => ?_, fun hempty => ?_⟩
    · rw [if_neg (by simp [hne])]
    · rw [if_pos (by simp [hempty]), appendBoundary]
      refine ⟨fun hroom => ?_, fun hfull hheld => ?_, fun hfull hd hb => ?_⟩
      · rw [if_pos (show ended.itk.transit.length < 4 from hroom)]
        rfl
      · rw [if_neg (show ¬ ended.itk.transit.length < 4 from not_lt.2 hfull), (deferralHeld_iff (s := ended)).2 hheld]
        rfl
      · have hhead : lotNumberAt held held.itk.queue.head? = none := by
          rw [show held.itk.queue = [] from hempty]
          rfl
        rw [if_neg (show ¬ ended.itk.transit.length < 4 from not_lt.2 hfull), deferralHeld_false (s := ended) hd hb]
        show decideFeed (postEvent .transitFull (lotContext (lotNumberAt held held.itk.queue.head?)) held) = _
        rw [hhead]
        rfl

/-! ### The transit list's head (R31) -/

/-- Settings that stand between two states: what the due time of a transit entry and the start of hooking read. -/
theorem Firm.intake_reads {s t : State} (h : Firm [] s t) : transitDue t = transitDue s ∧ started t = started s := by
  have hclock : t.clock = s.clock := h.settings .clock List.not_mem_nil
  have hconfig : t.mgu.config = s.mgu.config := h.settings .config List.not_mem_nil
  have hmode : t.mgu.mode = s.mgu.mode := h.settings .mode List.not_mem_nil
  exact ⟨by rw [transitDue, transitDue, hclock, hconfig], by rw [started, started, hmode]⟩

/-- The old weigh lot IN-PROCESS with its completion test (R31, R40). -/
def leaveWeighing (s : State) : State :=
  match s.itk.weighLot with
  | none   => s
  | some w => completionTest w (modifyLot w (fun l => { l with state := .inProcess }) s)

theorem posted_leaveWeighing (s : State) : Posted s (leaveWeighing s) := by
  unfold leaveWeighing
  split
  · exact .refl s
  · exact (posted_modifyLot _ _ s).trans (posted_completionTest _ _)

theorem firm_leaveWeighing {x : List Setting} (s : State) : Firm x s (leaveWeighing s) := by
  unfold leaveWeighing
  split
  · exact .refl s
  · exact (firm_modifyLot _ _ s).trans (firm_completionTest _ _)

/-- The entry's lot made the weigh lot, with the selection test when there is one (R31, R47). -/
def enterWeighing (e : TransitEntry) (s : State) : State :=
  let entered := onItk (fun b => { b with accumulator := 0, weighLot := e.lot }) s
  if e.lot.isSome then selectKiln entered else entered

theorem enterWeighing_itk (e : TransitEntry) (s : State) : ∃ p c, (enterWeighing e s).itk =
    { s.itk with accumulator := 0, weighLot := e.lot, permit := p, cause := c } := by
  unfold enterWeighing
  dsimp only
  split
  · rw [(selectKiln_itk _).1]
    exact ⟨_, _, rfl⟩
  · exact ⟨_, _, rfl⟩

theorem firm_enterWeighing {x : List Setting} (e : TransitEntry) (s : State) : Firm x s (enterWeighing e s) := by
  unfold enterWeighing
  dsimp only
  split
  · exact (firm_onItk _ s).trans (firm_selectKiln _)
  · exact firm_onItk _ s

/-- A pending boundary appended (R31). -/
def listBoundary (s : State) : State :=
  if s.itk.boundary then appendTransit none (onItk (fun b => { b with boundary := false }) s) else s

theorem transitSwitch_eq (e : TransitEntry) (rest : List TransitEntry) (s : State) : transitSwitch e rest s =
    decideFeed (hookingTest (listBoundary (enterWeighing e (leaveWeighing (onItk (fun b => { b with transit := rest }) s))))) := rfl

/-- Settles O28: the stages of `transitSwitch`, none of which changes the clock, the mode or the transit delay. -/
theorem transitEntryMakesTheWeighLot : Obligations.TransitEntryMakesTheWeighLot := by
  intro e rest s htransit hreached left entry
  let u := leaveWeighing left
  let v := enterWeighing e u
  let w := listBoundary v
  have hexec : exec .transitEntryDue s = .next (startPortB (decideFeed (hookingTest w))) := by
    have hdue : transitHeadDue s = true := by simp [transitHeadDue, htransit, hreached]
    refine (atDeadline_reached hdue takeTransit s).trans ?_
    rw [takeTransit, htransit]
    rfl
  have hu : u.itk = { left.itk with lots := u.itk.lots, permit := u.itk.permit, cause := u.itk.cause } :=
    (posted_leaveWeighing left).itk
  obtain ⟨p, c, hv⟩ := enterWeighing_itk e u
  rw [hu] at hv
  have hboundary : v.itk.boundary = s.itk.boundary := by rw [hv]; rfl
  have hfirm : Firm [] s v := ((firm_onItk _ s).trans (firm_leaveWeighing left)).trans (firm_enterWeighing e u)
  obtain ⟨hdue, -⟩ := hfirm.intake_reads
  have hw : w = if s.itk.boundary then onItk (fun b => { b with boundary := false, transit := b.transit ++ [entry none] }) v
      else v := by
    show (if v.itk.boundary then appendTransit none (onItk (fun b => { b with boundary := false }) v) else v) = _
    rw [hboundary]
    have hlast : appendTransit none (onItk (fun b => { b with boundary := false }) v) =
        onItk (fun b => { b with boundary := false, transit := b.transit ++ [⟨none, transitDue v⟩] }) v := rfl
    rw [hlast, hdue]
    rfl
  have hwitk : w.itk = { s.itk with
      lots := u.itk.lots, permit := p, cause := c, accumulator := 0, weighLot := e.lot, boundary := false
      transit := if s.itk.boundary then rest ++ [entry none] else rest } := by
    rw [hw]
    cases hb : s.itk.boundary with
    | true => rw [if_pos rfl, if_pos rfl, itk_onItk, hv]; rfl
    | false => rw [if_neg Bool.false_ne_true, if_neg Bool.false_ne_true, hv, ← hb]; rfl
  have hfirmW : Firm [] s w := by
    refine hfirm.trans ?_
    rw [hw]
    split
    · exact firm_onItk _ v
    · exact .refl v
  obtain ⟨hdueW, hmodeW⟩ := hfirmW.intake_reads
  obtain ⟨hweigh, hacc, hbound, hstay, hstart⟩ := hookingTest_itk w
  have ht := decideFeed_itk (hookingTest w)
  refine ⟨decideFeed (hookingTest w), u, v, w, fun hnone => ?_, fun i l hi hl => ?_, fun he => ?_, fun he => ?_,
    fun hb => by rw [hw, if_neg (by simp [hb])], fun hb => by rw [hw, if_pos hb], rfl, hexec, ?_, ?_, ?_, fun hno => ?_,
    fun i q hmode hnone hqueue hroom => ?_⟩
  · have hnone' : left.itk.weighLot = none := hnone
    simp only [u, leaveWeighing, hnone']
  · have hi' : left.itk.weighLot = some i := hi
    simp only [u, leaveWeighing, hi']
    rw [modifyLot_live (s := left) hl]
  · exact if_neg (by simp [he])
  · exact if_pos (by simpa [Option.isSome_iff_ne_none] using he)
  · rw [ht]
    exact hweigh.trans (by rw [hwitk])
  · rw [ht]
    exact hacc.trans (by rw [hwitk])
  · rw [ht]
    exact hbound (by rw [hwitk])
  · rw [ht]
    refine (hstay ?_).trans (by rw [hwitk])
    rwa [hmodeW, hwitk]
  · obtain ⟨h1, h2, h3⟩ := hstart i q (by rwa [hmodeW]) (by rw [hwitk]; exact hnone) (by rw [hwitk]; exact hqueue)
      (by rw [hwitk]; exact hroom)
    rw [ht]
    exact ⟨h1.trans (by rw [hwitk, hdueW]; rfl), h2, h3⟩

end Sys2Proof.Machine
end

section
/-! The feed permit, the belt, the selection of a kiln and the placing of a carry (R33 to R38, R46 to R54). -/

namespace Sys2Proof.Tab

variable {α : Type} {n : Nat}

theorem getD_val (t : Tab α n) (i : Fin n) (d : α) : t.getD i.val d = t.get i := by
  unfold getD get
  rw [List.getD_eq_getElem]

/-- The first index of a range that meets a test. -/
theorem find?_finRange {p : Fin n → Bool} {k : Fin n} (hk : p k = true) (hlow : ∀ j, j < k → p j = false) :
    (List.finRange n).find? p = some k := by
  rw [List.find?_eq_some_iff_getElem]
  refine ⟨hk, k.val, by simp, by simp, fun j hj => ?_⟩
  simp [hlow ⟨j, by omega⟩ (by simpa [Fin.lt_def] using hj)]

theorem lowest?_eq_some {t : Tab α n} {p : α → Bool} {k : Fin n} (hk : p (t.get k) = true)
    (hlow : ∀ j, j < k → p (t.get j) = false) : t.lowest? p = some k :=
  find?_finRange hk hlow

end Sys2Proof.Tab

namespace Sys2Proof.Machine

/-! ### The feed permit (R37, R38, R48) -/

theorem anyEligible_iff {s : State} : anyEligible s = true ↔ ∃ k, eligible s k = true := by
  simp [anyEligible]

theorem feedDecision_belt {s : State} (hmode : started s = true) (hlot : s.itk.hookLot ≠ none)
    (hbelt : (configLive s s.mgu.config.beltLoad && configLive s s.mgu.config.beltSpeed) = true) :
    feedDecision s = match fillingKiln s with
      | none   => if anyEligible s then (.go, none) else (.hold, some .noKiln)
      | some k =>
        if lowRoom s k then (.hold, some .noRoom)
        else if anyEligible s || decide (2 * s.mgu.config.feedQuantum ≤ roomOf s k) then (.go, none)
        else (.slow, none) := by
  have hsome : s.itk.hookLot.isNone = false := by simpa [Option.isSome_iff_ne_none] using hlot
  unfold feedDecision
  rw [hmode, hsome, hbelt]
  rfl

theorem decideFeed_eq (s : State) : decideFeed s =
    let stored := onItk (fun b => { b with permit := (feedDecision s).1, cause := (feedDecision s).2 }) s
    if (feedDecision s).1 = .hold then
      if s.itk.permit = .hold then stored else postEvent .feedHold (lotContext (hookOrHead s)) stored
    else if s.itk.permit = .hold then postDiverter stored else stored := rfl

/-- The DIVERTER command with the diverter kiln's index, where both the kiln and the entry are there (R48). -/
theorem postDiverter_eq (s : State) :
    ((s.kfr.diverter = none ∨ actuatorFor s .diverter = none) → postDiverter s = s) ∧
    ∀ k a, s.kfr.diverter = some k → actuatorFor s .diverter = some a → postDiverter s = postCommand ⟨a.node, a.number, k.val⟩ s := by
  unfold postDiverter
  refine ⟨?_, fun k a hk ha => by rw [hk, ha]⟩
  rintro (h | h)
  · rw [h]
  · rw [h]
    cases s.kfr.diverter <;> rfl

/-- Settles O29: the table row by row, and the decision stored with the posts that its change brings. -/
theorem feedPermitByItsTable : Obligations.FeedPermitByItsTable := by
  refine ⟨fun s => ?table, fun s => ?decided⟩
  case table =>
    intro belt q
    refine ⟨fun hmode => by simp [feedDecision, hmode], fun hmode hlot => by simp [feedDecision, hmode, hlot],
      fun hmode hlot hbelt => ?_, fun hmode hlot hbelt => ?_⟩
    · have hsome : s.itk.hookLot.isNone = false := by simpa [Option.isSome_iff_ne_none] using hlot
      unfold feedDecision
      rw [hmode, hsome, show (configLive s s.mgu.config.beltLoad && configLive s s.mgu.config.beltSpeed) = false from hbelt]
      rfl
    · rw [feedDecision_belt hmode hlot hbelt]
      refine ⟨fun hk he => by simp [hk, he], fun hk he => by simp [hk, he], fun k hk => ?_⟩
      rw [hk]
      refine ⟨fun he => by simp [lowRoom, he], fun he hlow => ?_, fun he hlow hgo => ?_, fun he hlow hslow => ?_⟩
      · have hroom : lowRoom s k = true := by simp [lowRoom, he]; exact hlow
        simp [hroom]
      · have hroom : lowRoom s k = false := by simp [lowRoom, he]; exact hlow
        simp [hroom, show 2 * s.mgu.config.feedQuantum ≤ roomOf s k from hgo]
      · have hroom : lowRoom s k = false := by simp [lowRoom, he]; exact hlow
        simp [hroom, he, show ¬ 2 * s.mgu.config.feedQuantum ≤ roomOf s k from not_le.2 hslow]
  case decided =>
    intro d stored
    rw [decideFeed_eq]
    dsimp only
    refine ⟨fun hd hp => ?_, fun hd hp => ?_, fun hd hp => ?_, fun hd hp hnone => ?_, fun k a hd hp hk ha => ?_⟩
    · rw [if_pos hd, if_pos hp]
    · rw [if_pos hd, if_neg hp]
    · rw [if_neg hd, if_neg hp]
    · rw [if_neg hd, if_pos hp]
      exact (postDiverter_eq stored).1 hnone
    · rw [if_neg hd, if_pos hp]
      exact (postDiverter_eq stored).2 k a hk ha

/-! ### The belt (R33 to R36, R151, R152) -/

theorem clampInt_eq_max_min {lo hi : Int} (h : lo ≤ hi) (v : Int) : clampInt lo hi v = max lo (min v hi) := by
  unfold clampInt
  split
  · omega
  · split <;> omega

theorem beltCap_eq (s : State) (c : Fin 64) : beltCap s c.val = 200 * 2 ^ (s.channels.get c).exponent := by
  unfold beltCap
  rw [Tab.getD_val]
  omega

theorem markGap_eq (s : State) : (s.itk.weighLot = none → markGap s = s) ∧
    ∀ w l, s.itk.weighLot = some w → lotAt s w = some l →
      markGap s = setLot w (some { l with flags := { l.flags with gap := true } }) s := by
  unfold markGap
  refine ⟨fun h => by rw [h], fun w l hw hl => ?_⟩
  rw [hw]
  exact modifyLot_live hl _

theorem carryGrams_eq (grams : Nat) (s : State) : (s.itk.weighLot = none → carryGrams grams s = s) ∧ carryGrams 0 s = s ∧
    ∀ w l, s.itk.weighLot = some w → lotAt s w = some l → 0 < grams →
      carryGrams grams s = placeCarry w grams (setLot w (some { l with greenFed := min (l.greenFed + grams) 4294967295 }) s) := by
  unfold carryGrams
  refine ⟨fun h => by rw [h], by cases s.itk.weighLot <;> rfl, fun w l hw hl hpos => ?_⟩
  simp only [hw]
  rw [if_neg (by omega), modifyLot_live hl]
  rfl

/-- Settles O30: the interval and the cap of an arrival, then the increment by the sign of the speed. -/
theorem beltIncrementIsCarriedInGrams : Obligations.BeltIncrementIsCarriedInGrams := by
  refine ⟨fun c value now s => ?arrival, fun load dt s => ?increase⟩
  case arrival =>
    intro cap speedLive noted
    let capped := decide (beltCap s c.val < beltInterval s now) || !isLive noted noted.mgu.config.beltSpeed
    have hcapped : capped = true ↔ (cap < beltInterval s now ∨ ¬ speedLive) := by
      have hlive : isLive noted noted.mgu.config.beltSpeed = isLive s s.mgu.config.beltSpeed := rfl
      simp only [capped, Bool.or_eq_true, decide_eq_true_eq, beltCap_eq, Bool.not_eq_true', hlive, cap, speedLive,
        Bool.not_eq_true]
    have harrival : beltArrival c.val value now s = beltIncrease (clampInt 0 60000 value).toNat
        (min (beltInterval s now) (beltCap s c.val)) (if capped then markGap noted else noted) := rfl
    obtain ⟨hnone, hgap⟩ := markGap_eq noted
    refine ⟨beltInterval s now, _, if capped then markGap noted else noted, fun h => by rw [beltInterval, h],
      fun t h => by rw [beltInterval, h]; rfl, congrArg Int.toNat (clampInt_eq_max_min (by decide) value), ?_, fun h => ?_,
      fun hle hlive => if_neg fun h => ?_, fun w l hw hl h => ?_⟩
    · rw [harrival, beltCap_eq]
    · split
      · exact hnone h
      · rfl
    · exact (hcapped.1 h).elim (not_lt.2 hle) fun h' => h' hlive
    · rw [if_pos (hcapped.2 h), hgap w l hw hl]
  case increase =>
    intro v sum
    refine ⟨fun hv => if_neg (not_lt.2 hv), fun hv hr => (if_pos hv).trans (if_pos hr), fun hv hr => ?_,
      fun grams => (carryGrams_eq grams s).1, (carryGrams_eq 0 s).2.1, fun grams => (carryGrams_eq grams s).2.2⟩
    intro reversed
    have hposts : beltIncrease load dt s = postEvent .beltReverse (lotContext (lotNumberAt s s.itk.weighLot)) reversed :=
      (if_pos hv).trans (if_neg (by simp [hr]))
    exact ⟨fun h => by rw [hposts, h]; rfl, fun w l hw hl => by rw [hposts, hw, lotNumberAt_live hl]; rfl⟩

/-! ### The selection test (R46 to R48) -/

/-- The decision of the feed permit moves the ring link only, once the permit and its cause are stored. -/
theorem decideFeed_link (s : State) :
    LinkOnly (onItk (fun b => { b with permit := (feedDecision s).1, cause := (feedDecision s).2 }) s) (decideFeed s) := by
  rw [decideFeed_eq]
  dsimp only
  split
  · split
    · exact .refl _
    · exact linkOnly_postEvent _ _ _
  · split
    · unfold postDiverter
      split
      · exact linkOnly_postCommand _ _
      · exact .refl _
    · exact .refl _

theorem decideFeed_pru (s : State) : (decideFeed s).pru = s.pru := by
  obtain ⟨⟨-, -, -, -, -, hpru⟩, -⟩ := decideFeed_link s
  exact hpru

theorem postDiverter_link (s : State) : LinkOnly s (postDiverter s) := by
  unfold postDiverter
  split
  · exact linkOnly_postCommand _ _
  · exact .refl _

theorem selectKiln_closed {s : State} (h : started s = false ∨ fillingKiln s ≠ none ∨
    (s.itk.hookLot = none ∧ s.itk.weighLot = none) ∨ ∀ k, eligible s k = false) : selectKiln s = s := by
  unfold selectKiln
  split
  · rename_i hopen
    simp only [Bool.and_eq_true, Bool.or_eq_true, Option.isNone_iff_eq_none] at hopen
    obtain ⟨⟨hmode, hfilling⟩, hlot⟩ := hopen
    rcases h with h | h | ⟨hhook, hweigh⟩ | h
    · exact absurd hmode (by simp [h])
    · exact absurd hfilling h
    · simp [hhook, hweigh] at hlot
    · have hnone : lowestEligible s = none := List.find?_eq_none.2 fun k _ => by simp [h k]
      rw [hnone]
  · rfl

theorem selectKiln_open {s : State} {k : Fin 4} (hmode : started s = true) (hfilling : fillingKiln s = none)
    (hlot : s.itk.hookLot ≠ none ∨ s.itk.weighLot ≠ none) (hk : eligible s k = true)
    (hlow : ∀ j, j < k → eligible s j = false) : selectKiln s = chooseKiln k s := by
  have hopen : (started s && (fillingKiln s).isNone && (s.itk.hookLot.isSome || s.itk.weighLot.isSome)) = true := by
    simpa [hmode, hfilling, Option.isSome_iff_ne_none] using hlot
  rw [selectKiln, if_pos hopen, show lowestEligible s = some k from Tab.find?_finRange hk hlow]

/-- Settles O31: the test is closed or open; open, the lowest eligible kiln is chosen, and the books but its load are left. -/
theorem selectionTakesTheLowestEligibleKiln : Obligations.SelectionTakesTheLowestEligibleKiln := by
  intro s
  refine ⟨selectKiln_closed, fun k hmode hfilling hlot hk hlow => ?_⟩
  intro t tare u
  have ht : t = postDiverter u := selectKiln_open hmode hfilling hlot hk hlow
  let loaded := onKfr (fun b => { b with
    loads := b.loads.set k ⟨some b.nextSerial, [], tare, false⟩, nextSerial := nextInSequence 65535 b.nextSerial }) s
  let moved := modifyKiln k (fun kl => { kl with state := .filling }) loaded
  obtain ⟨⟨hitk, hkfr, hkilns, huar, hcfl, hpru⟩, ⟨-, hactuators, -⟩, -⟩ := decideFeed_link moved
  obtain ⟨⟨hitk', hkfr', hkilns', huar', hcfl', hpru'⟩, -⟩ := postDiverter_link u
  have hentry : actuatorFor u .diverter = actuatorFor s .diverter := by
    show actuatorFor (decideFeed moved) .diverter = _
    rw [actuatorFor, hactuators]
    rfl
  have htkilns : t.kilns = s.kilns.modify k (fun kl => { kl with state := .filling }) := by
    rw [ht, hkilns']
    exact hkilns
  have htkfr : t.kfr = { loaded.kfr with diverter := some k } := by
    rw [ht, hkfr']
    exact congrArg (fun b : Kfr => { b with diverter := some k }) hkfr
  refine ⟨fun hnone => ?_, fun a ha => ?_, ?_, fun j hj => ?_, ?_, fun j hj => ?_, ?_, ?_, ?_, ?_, ?_, ?_⟩
  · rw [ht]
    exact (postDiverter_eq u).1 (.inr (hentry.trans hnone))
  · rw [ht]
    exact (postDiverter_eq u).2 k a rfl (hentry.trans ha)
  · rw [htkilns, Tab.get_modify_self]
  · rw [htkilns, Tab.get_modify_ne _ _ hj.symm]
  · rw [htkfr]
    exact Tab.get_set_self _ _ _
  · rw [htkfr]
    exact Tab.get_set_ne _ _ hj.symm
  · rw [htkfr]
  · rw [htkfr]
    rfl
  · have htitk : t.itk = (decideFeed moved).itk := by
      rw [ht, hitk']
      rfl
    rw [htitk, hitk]
    rfl
  · rw [ht, hcfl']
    exact hcfl
  · rw [ht, huar']
    exact huar
  · rw [ht, hpru']
    exact hpru

/-! ### The placing of a carry (R50 to R53) -/

/-- With a diverter kiln, a carry is placed by that kiln's state. -/
theorem placeByTable_diverted {s : State} {k : Fin 4} (h : s.kfr.diverter = some k) (n : Nat) (slot : Fin 32) (l : Lot)
    (grams : Nat) : placeByTable (n + 1) slot l grams s =
      match (s.kilns.get k).state with
      | .filling =>
        if holdsContribution (loadOf s k) slot then creditFilling k (growContribution slot grams) s
        else if (loadOf s k).contributions.length < 6 then creditFilling k (addContribution slot l grams) s
        else placeByTable n slot l grams (enterLoaded k s)
      | .loaded =>
        if holdsContribution (loadOf s k) slot then creditLoad k (growContribution slot grams) s
        else if (loadOf s k).contributions.length < 6 then
          updateLot slot addKilnRef (creditLoad k (addContribution slot l grams) s)
        else spillCarry slot l grams s
      | _ => spillCarry slot l grams s := by
  rw [placeByTable, h] <;> rfl

/-- Settles O32: the table's rows are the branches of `placeByTable`. -/
theorem carriesArePlacedByTheDiverterKiln : Obligations.CarriesArePlacedByTheDiverterKiln := by
  intro slot l grams n s
  refine ⟨fun h => by rw [placeByTable, h], fun k hk => ?_, fun k => Tab.get_set_self _ _ _, ?_⟩
  · rw [placeByTable_diverted hk]
    refine ⟨fun hf hl => ?_, fun hf => ?_, fun hl => ?_⟩
    · split
      · exact absurd (by assumption) hf
      · exact absurd (by assumption) hl
      · rfl
    · simp only [hf]
      exact ⟨fun h => if_pos h, fun h hlen => by rw [if_neg (by simp [h]), if_pos hlen],
        fun h hlen => by rw [if_neg (by simp [h]), if_neg (not_lt.2 hlen)]⟩
    · simp only [hl]
      exact ⟨fun h => if_pos h, fun h hlen => by rw [if_neg (by simp [h]), if_pos hlen]; rfl,
        fun h hlen => by rw [if_neg (by simp [h]), if_neg (not_lt.2 hlen)]⟩
  · rfl

end Sys2Proof.Machine
end

section
/-! Requests from their frames to their owners: the checks of R179 in their order, the reads of tables and views, and the
requests that touch the ring link alone. -/

namespace Sys2Proof.Machine

/-! ### A request taken, by each check of R179 -/

/-- A request that is not for the device is forwarded (R166). -/
theorem takeRequest_forwarded {s : State} {f : Frame} (hown : fromOwn s f = false) (hto : toOwn s f = false) (r : Request) :
    takeRequest true f r s = startPortB (forward f (taken s)) := by
  have hto' : toOwn (taken s) f = false := hto
  rw [takeRequest, takeFrame_handled hown, handleRequest, hto']
  rfl

/-- A request for the device from another node is served in the state `asked s`. -/
theorem takeRequest_serve {s : State} {f : Frame} (hown : fromOwn s f = false) (hto : toOwn s f = true) (r : Request) :
    takeRequest true f r s = startPortB (serve f r (asked s)) := by
  have hto' : toOwn (taken s) f = true := hto
  rw [takeRequest, takeFrame_handled hown, handleRequest, hto']
  rfl

/-- A source that no node has: the request is discarded (R179 step 1). -/
theorem takeRequest_noNode {s : State} {f : Frame} (hown : fromOwn s f = false) (hto : toOwn s f = true)
    (hsrc : f.src = 0 ∨ 126 < f.src.toNat) (r : Request) : takeRequest true f r s = startPortB (asked s) := by
  have hd : discarded f = true := by
    rw [discarded, decide_eq_true_eq]
    exact hsrc.elim (fun h => .inl (by rw [h]; rfl)) (fun h => .inr (.inl h))
  rw [takeRequest_serve hown hto, serve, if_pos hd]

theorem answer_malformed {r : Request} {n : Nat} {s : State} (h : r.form = false) : answer r n s = (s, refusal .malformed) := by
  simp [answer, h]

theorem answer_notPermitted {r : Request} {n : Nat} {s : State} (hform : r.form = true) (h : r.may s (classOf s n) = false) :
    answer r n s = (s, refusal .notPermitted) := by
  simp [answer, hform, h]

theorem answer_notStarted {r : Request} {n : Nat} {s : State} (hform : r.form = true) (hmay : r.may s (classOf s n) = true)
    (hjob : r.job = true) (h : started s = false) : answer r n s = (s, refusal .notStarted) := by
  simp [answer, hform, hmay, hjob, h]

/-- The effect of a request row: the ring link alone, or what its owner makes of the state `asked s`. -/
theorem takeRequest_cases (b : Bool) (f : Frame) (r : Request) (s : State) :
    LinkOnly s (takeRequest b f r s) ∨ takeRequest b f r s = answered f (r.owner (asked s)).2 (r.owner (asked s)).1 := by
  cases b with
  | false => exact .inl (.refl s)
  | true =>
    cases hown : fromOwn s f with
    | true =>
      refine .inl ?_
      rw [takeRequest, takeFrame_own hown]
      exact ((linkOnly_taken s).trans (linkOnly_withCounts _ _)).trans (linkOnly_startPortB _)
    | false =>
      cases hto : toOwn s f with
      | false =>
        refine .inl ?_
        rw [takeRequest_forwarded hown hto]
        exact ((linkOnly_taken s).trans (linkOnly_forward f _)).trans (linkOnly_startPortB _)
      | true =>
        rw [takeRequest_serve hown hto]
        unfold serve answer
        split
        · exact .inl ((linkOnly_asked s).trans (linkOnly_startPortB _))
        · split_ifs
          · exact .inl ((linkOnly_asked s).trans (linkOnly_answered f _ _))
          · exact .inl ((linkOnly_asked s).trans (linkOnly_answered f _ _))
          · exact .inl ((linkOnly_asked s).trans (linkOnly_answered f _ _))
          · exact .inr rfl

/-! ### The rows of requests -/

/-- The row is a request with this row's form, classes and mode, of at least a tag and a code. -/
def RequestRow.Serves (r : RequestRow) (f : Frame) (s : State) : Prop :=
  (r.ofRow f = true → 3 ≤ f.payload.length) ∧
  ∃ q : Request, exec (r.row f) s = .next (takeRequest (r.ofRow f) f q s) ∧ q.form = r.form f ∧
    (∀ c, q.may (asked s) c = r.may f s c) ∧ q.job = r.job

/-- Every TABLE-READ row reads its table's entries by its window. -/
theorem tableReadRows_exec (f : Frame) (s : State) : ∀ r ∈ tableReadRows,
    exec (r.row f) s = .next (takeRequest (asksOf f 1 r.code) f (tableRead f r.lo r.hi r.entries) s) ∧
    r.entries (asked s) = r.entries s := by
  simp only [tableReadRows, List.forall_mem_cons, List.not_mem_nil, false_imp_iff, implies_true, and_true]
  refine ⟨⟨rfl, rfl⟩, ⟨rfl, rfl⟩, ⟨rfl, rfl⟩, ⟨rfl, rfl⟩, ⟨rfl, rfl⟩, ⟨rfl, rfl⟩, ⟨rfl, rfl⟩⟩

/-- Every STATUS-READ row forms its view. -/
theorem statusReadRows_exec (f : Frame) (s : State) : ∀ r ∈ statusReadRows,
    exec (r.row f) s = .next (takeRequest (asksOf f 3 r.code) f (statusRead f (r.view f)) s) := by
  simp only [statusReadRows, List.forall_mem_cons, List.not_mem_nil, false_imp_iff, implies_true, and_true]
  exact ⟨rfl, rfl, rfl, rfl, rfl, rfl, rfl, rfl, rfl, rfl, rfl, rfl, rfl⟩

theorem length_of_asksCredit {f : Frame} (h : asksCreditAdd f = true ∨ asksCreditSet f = true) : 3 ≤ f.payload.length := by
  rcases h with h | h
  · exact length_of_asks (Bool.and_eq_true_iff.mp h).1
  · exact length_of_asks (Bool.and_eq_true_iff.mp h).1

theorem tableWriteRows_serve (f : Frame) (s : State) : ∀ r ∈ tableWriteRows, r.Serves f s := by
  simp only [tableWriteRows, List.forall_mem_cons, List.not_mem_nil, false_imp_iff, implies_true, and_true]
  refine ⟨?_, ?_, ?_, ?_, ?_, ?_, ?_⟩ <;> exact ⟨length_of_asksOf, _, rfl, rfl, fun _ => rfl, rfl⟩

theorem setupRows_serve (f : Frame) (s : State) : ∀ r ∈ setupRows, r.Serves f s := by
  simp only [setupRows, List.forall_mem_cons, List.not_mem_nil, false_imp_iff, implies_true, and_true]
  refine ⟨?_, ?_, ?_, ?_, ?_, ?_, ?_⟩ <;> exact ⟨length_of_asks, _, rfl, rfl, fun _ => rfl, rfl⟩

theorem jobRows_serve (f : Frame) (s : State) : ∀ r ∈ jobRows, r.Serves f s := by
  simp only [jobRows, List.forall_mem_cons, List.not_mem_nil, false_imp_iff, implies_true, and_true]
  refine ⟨?_, ?_, ?_, ?_, ?_, ?_, ?_, ?_, ?_, ?_, ?creditAdd, ?creditSet, ?_, ?_, ?_⟩
  case creditAdd => exact ⟨fun h => length_of_asksCredit (.inl h), _, rfl, rfl, fun _ => rfl, rfl⟩
  case creditSet => exact ⟨fun h => length_of_asksCredit (.inr h), _, rfl, rfl, fun _ => rfl, rfl⟩
  all_goals exact ⟨length_of_asks, _, rfl, rfl, fun _ => rfl, rfl⟩

theorem weighmasterRows_serve (f : Frame) (s : State) : ∀ r ∈ weighmasterRows, r.Serves f s := by
  simp only [weighmasterRows, List.forall_mem_cons, List.not_mem_nil, false_imp_iff, implies_true, and_true]
  refine ⟨?_, ?_, ?_⟩ <;> exact ⟨length_of_asks, _, rfl, rfl, fun _ => rfl, rfl⟩

/-- Every request row is a request of its form, classes and mode. -/
theorem requestRows_serve (f : Frame) (s : State) : ∀ r ∈ requestRows, r.Serves f s := by
  intro r hr
  simp only [requestRows, List.mem_append, List.mem_map] at hr
  rcases hr with ((((⟨q, hq, rfl⟩ | ⟨q, hq, rfl⟩) | h) | h) | h) | h
  · exact ⟨length_of_asksOf, _, (tableReadRows_exec f s q hq).1, rfl, fun _ => rfl, rfl⟩
  · exact ⟨length_of_asksOf, _, statusReadRows_exec f s q hq, rfl, fun _ => rfl, rfl⟩
  · exact tableWriteRows_serve f s r h
  · exact setupRows_serve f s r h
  · exact jobRows_serve f s r h
  · exact weighmasterRows_serve f s r h

/-! ### Who may write what (R5, R180, R181) -/

theorem isWeighmaster_iff {c : NodeClass} : isWeighmaster c = true ↔ c = .weighmaster := decide_eq_true_iff

theorem isOperator_iff {c : NodeClass} : isOperator c = true ↔ c ≠ .viewer := decide_eq_true_iff

/-- A channel write is a weighmaster item when it carries or replaces an entry of kind MASS or LOAD (R5). -/
theorem channelItem_iff {f : Frame} {s : State} : channelItem f s = true ↔
    (∃ i, InWindow f i ∧ (field (entryFor f 19 i) 3 1 = 2 ∨ field (entryFor f 19 i) 3 1 = 3)) ∨
    ∃ i : Fin 64, InWindow f i ∧ ((s.channels.get i).kind = .mass ∨ (s.channels.get i).kind = .load) := by
  unfold channelItem
  rw [Bool.or_eq_true, List.any_eq_true, List.any_eq_true]
  refine or_congr ⟨?_, ?_⟩ ⟨?_, ?_⟩
  · rintro ⟨bs, hmem, hkind⟩
    obtain ⟨i, hi, rfl⟩ := (mem_writtenEntries f 19 bs).mp hmem
    exact ⟨i, hi, of_decide_eq_true hkind⟩
  · rintro ⟨i, hi, hkind⟩
    exact ⟨_, (mem_writtenEntries f 19 _).mpr ⟨i, hi, rfl⟩, decide_eq_true hkind⟩
  · rintro ⟨i, -, h⟩
    obtain ⟨hi, hkind⟩ := Bool.and_eq_true_iff.mp h
    exact ⟨i, of_decide_eq_true hi, of_decide_eq_true hkind⟩
  · rintro ⟨i, hi, hkind⟩
    exact ⟨i, List.mem_finRange i, Bool.and_eq_true_iff.mpr ⟨decide_eq_true hi, decide_eq_true hkind⟩⟩

/-- The CONFIG write is a weighmaster item when it changes a settlement field of a valid record (R181). -/
theorem configItem_iff {f : Frame} {s : State} : configItem f s = true ↔
    s.mgu.configValid = true ∧ ((carriedConfig f).reference ≠ s.mgu.config.reference ∨
      (carriedConfig f).baleTolerance ≠ s.mgu.config.baleTolerance ∨ (carriedConfig f).mismatch ≠ s.mgu.config.mismatch) := by
  rw [configItem, Bool.and_eq_true, decide_eq_true_eq]

theorem classMatches_iff {n : Nat} {e : NodeClassEntry} :
    classMatches n e = true ↔ e.valid = true ∧ Nat.land n e.mask = Nat.land e.address e.mask := by
  rw [classMatches, Bool.and_eq_true, decide_eq_true_eq]

/-- A source that no valid entry matches is a VIEWER (R180). -/
theorem classOf_viewer {s : State} {n : Nat} (h : ∀ e ∈ s.mgu.nodeClasses.cells, e.valid = true →
    Nat.land n e.mask ≠ Nat.land e.address e.mask) : classOf s n = .viewer := by
  have hnone : s.mgu.nodeClasses.cells.find? (classMatches n) = none :=
    List.find?_eq_none.mpr (fun e he hm => h e he (classMatches_iff.mp hm).1 (classMatches_iff.mp hm).2)
  rw [classOf, hnone]

/-- The first valid entry that matches a source gives its class (R180). -/
theorem classOf_first {s : State} {n : Nat} {l r : List NodeClassEntry} {e : NodeClassEntry}
    (hcells : s.mgu.nodeClasses.cells = l ++ e :: r) (hvalid : e.valid = true)
    (hmatch : Nat.land n e.mask = Nat.land e.address e.mask)
    (hbefore : ∀ d ∈ l, d.valid = true → Nat.land n d.mask ≠ Nat.land d.address d.mask) :
    classOf s n = if e.weighmaster then .weighmaster else .operator := by
  have hl : l.find? (classMatches n) = none :=
    List.find?_eq_none.mpr (fun d hd hm => hbefore d hd (classMatches_iff.mp hm).1 (classMatches_iff.mp hm).2)
  have hfind : s.mgu.nodeClasses.cells.find? (classMatches n) = some e := by
    rw [hcells, List.find?_append, hl, List.find?_cons_of_pos (classMatches_iff.mpr ⟨hvalid, hmatch⟩)]
    rfl
  rw [classOf, hfind]

/-- Settles O33: each row is a request of its form, classes and mode, and the lemmas about `takeRequest` and `answer` give one
outcome for each check; then the classes by the items that they may write. -/
theorem requestsAreCheckedInOrder : Obligations.RequestsAreCheckedInOrder := by
  refine ⟨fun r hr f s hrow => ?rows, fun f s hf hown => ?elsewhere, fun f s hasked hf => ?undefined, fun f s c => ?classes,
    fun s n => ⟨classOf_viewer, fun l e r hcells hvalid hmatch hbefore => classOf_first hcells hvalid hmatch hbefore⟩⟩
  case rows =>
    obtain ⟨hlength, q, hexec, hform, hmay, hjob⟩ := requestRows_serve f s r hr
    rw [hexec, hrow]
    refine ⟨fun hown hto => by rw [takeRequest_forwarded hown hto], fun hown hto hsrc => by rw [takeRequest_noNode hown hto hsrc],
      fun hasked => ?_⟩
    rw [takeRequest_served hasked (hlength hrow)]
    refine ⟨fun hbad => ?_, fun hok hno => ?_, fun hok hyes hj hmode => ?_, fun _ _ _ => ⟨_, _, rfl⟩⟩
    · rw [answer_malformed (hform.trans hbad)]
    · rw [answer_notPermitted (hform.trans hok) ((hmay _).trans hno)]
    · rw [answer_notStarted (hform.trans hok) ((hmay _).trans hyes) (hjob.trans hj) hmode]
  case elsewhere =>
    have hexec : exec (.requestUndefined f) s =
        .next (takeRequest (asksNothing f) f (readRequest false (fun s => (s, refusal .malformed))) s) := rfl
    rw [hexec, hf]
    exact ⟨fun hto => by rw [takeRequest_forwarded hown hto], fun hto hsrc => by rw [takeRequest_noNode hown hto hsrc]⟩
  case undefined =>
    have hexec : exec (.requestUndefined f) s =
        .next (takeRequest (asksNothing f) f (readRequest false (fun s => (s, refusal .malformed))) s) := rfl
    rw [hexec, hf]
    exact ⟨fun hshort => by rw [takeRequest_short hasked hshort],
      fun hlong => by rw [takeRequest_served hasked hlong, answer_malformed rfl]⟩
  case classes =>
    refine ⟨fun hitem => ?_, fun hnone hold => ?_, fun hitem => ?_, fun hitem => ?_, ?_⟩
    · rw [mayWriteChannels, if_pos (channelItem_iff.mpr hitem), isWeighmaster_iff]
    · rw [mayWriteChannels, if_neg (fun h => (channelItem_iff.mp h).elim hnone hold), isOperator_iff]
    · rw [mayWriteConfig, if_pos (configItem_iff.mpr hitem), isWeighmaster_iff]
    · rw [mayWriteConfig, if_neg (fun h => hitem (configItem_iff.mp h)), isOperator_iff]
    · rw [mayWriteClasses, Bool.or_eq_true, Bool.not_eq_true', isWeighmaster_iff]

/-! ### Reads (R182, R187) -/

/-- The entries that fit are the first ones, within the room, and the next one would pass it. -/
theorem fitting_spec (xs : List (List Byte)) : ∀ room : Nat, ∃ rest, xs = fitting room xs ++ rest ∧
    (fitting room xs).flatten.length ≤ room ∧ ∀ e ∈ rest.head?, room < (fitting room xs).flatten.length + e.length := by
  induction xs with
  | nil => exact fun room => ⟨[], rfl, Nat.zero_le _, by simp⟩
  | cons x xs ih =>
    intro room
    unfold fitting
    split
    · obtain ⟨rest, heq, hle, hnext⟩ := ih (room - x.length)
      refine ⟨rest, congrArg (x :: ·) heq, ?_, fun e he => ?_⟩
      · rw [List.flatten_cons, List.length_append]; omega
      · have := hnext e he
        rw [List.flatten_cons, List.length_append]; omega
    · exact ⟨x :: xs, rfl, Nat.zero_le _, fun e he => by simp at he; subst he; simp; omega⟩

theorem windowIn_iff {lo hi first count : Nat} :
    windowIn lo hi first count = true ↔ lo ≤ first ∧ first + count ≤ hi + 1 := decide_eq_true_iff

theorem readAnswer_outside {lo hi : Nat} {f : Frame} (h : windowIn lo hi (arg f 1 1) (arg f 2 1) = false)
    (entries : List (List Byte)) (s : State) : readAnswer lo hi entries f s = (s, refusal .outOfRange) := by
  simp [readAnswer, h]

theorem readAnswer_inside {lo hi : Nat} {f : Frame} (h : windowIn lo hi (arg f 1 1) (arg f 2 1) = true)
    (entries : List (List Byte)) (s : State) : readAnswer lo hi entries f s =
      let es := fitting 235 ((entries.drop (arg f 1 1 - lo)).take (arg f 2 1))
      (s, done (beBytes 1 (arg f 1 1) ++ beBytes 1 es.length ++ es.flatten)) := by
  simp [readAnswer, h]

theorem readAnswer_state (lo hi : Nat) (entries : List (List Byte)) (f : Frame) (s : State) :
    (readAnswer lo hi entries f s).1 = s := by
  cases h : windowIn lo hi (arg f 1 1) (arg f 2 1) with
  | true => rw [readAnswer_inside h]
  | false => rw [readAnswer_outside h]

/-- Settles O34: a read is answered by its owner in the state `asked s`; the entries that fit are those of `fitting_spec`, and a
view's answer goes by its part. -/
theorem tableAndStatusReads : Obligations.TableAndStatusReads := by
  refine ⟨fun r hr f s hasked hof hlen => ?table, fun r hr f s hasked hof hlen => ?view⟩
  case table =>
    intro first count hcount
    obtain ⟨hexec, hentries⟩ := tableReadRows_exec f s r hr
    have hform : readForm f = true := Bool.and_eq_true_iff.mpr ⟨hlen, decide_eq_true hcount⟩
    rw [hexec, hof, tableRead, readRequest_answered hasked (length_of_asksOf hof) hform, hentries]
    refine ⟨fun hout => ?_, fun hlo hhi => ?_⟩
    · have hw : windowIn r.lo r.hi first count = false := by
        rw [Bool.eq_false_iff, ne_eq, windowIn_iff]; omega
      rw [readAnswer_outside hw]
    · have hw : windowIn r.lo r.hi first count = true := windowIn_iff.mpr ⟨hlo, by omega⟩
      obtain ⟨rest, heq, hle, hnext⟩ := fitting_spec (((r.entries s).drop (first - r.lo)).take count) 235
      rw [readAnswer_inside hw]
      exact ⟨_, rest, heq, rfl, hle, hnext⟩
  case view =>
    intro part
    rw [statusReadRows_exec f s r hr, hof, statusRead, readRequest_answered hasked (length_of_asksOf hof) hlen]
    refine ⟨fun hnone => by rw [hnone]; rfl, fun v hv => ?_⟩
    rw [hv]
    refine ⟨fun hpart => ?_, fun hne hbeyond => ?_⟩
    · rw [viewAnswer, if_neg (by omega)]
    · rw [viewAnswer, if_pos ⟨Nat.pos_of_ne_zero hne, hbeyond⟩]

/-! ### Requests that touch the ring link alone -/

theorem linkOnly_refused (f : Frame) (lo hi : Nat) (s : State) : LinkOnly s (inWindow f lo hi refuseWrite s).1 := by
  unfold inWindow
  split <;> exact .refl s

theorem linkOnly_sendTests (s : State) : LinkOnly s (sendTests s) := (linkOnly_exhaustedTest s).trans (linkOnly_offerTest _)

theorem linkOnly_setCredits (n : Nat) (s : State) : LinkOnly s (setCredits n s) := linkOnly_onTku _ s ⟨rfl, rfl, rfl, rfl, rfl⟩

theorem linkOnly_addCredits (f : Frame) (s : State) : LinkOnly s (addCredits f s).1 := by
  unfold addCredits
  split
  · exact (linkOnly_setCredits _ s).trans (linkOnly_sendTests _)
  · exact .refl s

theorem linkOnly_setCreditsRequest (f : Frame) (s : State) : LinkOnly s (setCreditsRequest f s).1 := by
  refine ((linkOnly_setCredits (arg f 1 1) s).trans ?_).trans (linkOnly_sendTests _)
  split
  · exact linkOnly_withdraw _
  · exact .refl _

theorem linkOnly_rewindTickets (s : State) : LinkOnly s (rewindTickets s).1 := by
  have hcontents : (s.tku.queue.map rewound).map ticketContents = s.tku.queue.map ticketContents := by
    rw [List.map_map]
    exact List.map_congr_left (fun t _ => contents_rewound t)
  exact ((linkOnly_onTku _ s ⟨rfl, rfl, rfl, rfl, hcontents⟩).trans (linkOnly_withdraw _)).trans (linkOnly_sendTests _)

/-- A link row's effect is on the link alone. -/
theorem linkOnly_linkRows (f : Frame) (s : State) : ∀ row ∈ linkRows, ∃ t, exec (row f) s = .next t ∧ LinkOnly s t := by
  intro row hrow
  simp only [linkRows, List.mem_append, List.mem_map] at hrow
  rcases hrow with (hrow | ⟨r, hr, rfl⟩) | ⟨r, hr, rfl⟩
  case inl.inr => exact ⟨_, (tableReadRows_exec f s r hr).1, linkOnly_takeRequest _ f _ (fun s => by
    show LinkOnly s (readAnswer r.lo r.hi (r.entries s) f s).1; rw [readAnswer_state]; exact .refl s) s⟩
  case inr => exact ⟨_, statusReadRows_exec f s r hr, linkOnly_takeRequest _ f _ (fun s => .refl s) s⟩
  simp only [List.mem_cons, List.not_mem_nil, or_false] at hrow
  rcases hrow with rfl | rfl | rfl | rfl | rfl | rfl | rfl | rfl | rfl | rfl
  · exact ⟨_, rfl, linkOnly_takeFrame _ f id (fun s => .refl s) s⟩
  · exact ⟨_, rfl, linkOnly_takeFrame _ f _ (linkOnly_passCommand f) s⟩
  · exact ⟨_, rfl, linkOnly_takeFrame _ f _ (linkOnly_forward f) s⟩
  · exact ⟨_, rfl, linkOnly_takeFrame _ f _ (linkOnly_forward f) s⟩
  · exact ⟨_, rfl, linkOnly_takeRequest _ f _ (fun s => .refl s) s⟩
  · exact ⟨_, rfl, linkOnly_takeRequest _ f _ (linkOnly_refused f 1 8) s⟩
  · exact ⟨_, rfl, linkOnly_takeRequest _ f _ (linkOnly_refused f 0 95) s⟩
  · exact ⟨_, rfl, linkOnly_takeRequest _ f _ (linkOnly_addCredits f) s⟩
  · exact ⟨_, rfl, linkOnly_takeRequest _ f _ (linkOnly_setCreditsRequest f) s⟩
  · exact ⟨_, rfl, linkOnly_takeRequest _ f _ linkOnly_rewindTickets s⟩

/-- The event cells and the report destination may have changed, and nothing else but the ring link. -/
abbrev EventsOnly (s t : State) : Prop :=
  SameBooks s t ∧ t.channels = s.channels ∧ t.actuators = s.actuators ∧ t.rct = s.rct ∧ SameTickets s t ∧
    t.mgu.mode = s.mgu.mode ∧ t.mgu.config = s.mgu.config ∧ t.mgu.nodeClasses = s.mgu.nodeClasses

theorem EventsOnly.of_link {s t : State} (h : LinkOnly s t) : EventsOnly s t := by
  obtain ⟨hbooks, ⟨hchannels, hactuators, hrct, hmgu⟩, htickets, -⟩ := h
  exact ⟨hbooks, hchannels, hactuators, hrct, htickets, by rw [hmgu], by rw [hmgu], by rw [hmgu]⟩

theorem EventsOnly.trans {s t u : State} (h : EventsOnly s t) (k : EventsOnly t u) : EventsOnly s u := by
  obtain ⟨⟨a1, a2, a3, a4, a5, a6⟩, b1, b2, b3, ⟨c1, c2, c3, c4, c5⟩, d1, d2, d3⟩ := h
  obtain ⟨⟨e1, e2, e3, e4, e5, e6⟩, f1, f2, f3, ⟨g1, g2, g3, g4, g5⟩, i1, i2, i3⟩ := k
  exact ⟨⟨e1.trans a1, e2.trans a2, e3.trans a3, e4.trans a4, e5.trans a5, e6.trans a6⟩, f1.trans b1, f2.trans b2, f3.trans b3,
    ⟨g1.trans c1, g2.trans c2, g3.trans c3, g4.trans c4, g5.trans c5⟩, i1.trans d1, i2.trans d2, i3.trans d3⟩

theorem eventsOnly_onMgu (m : Mgu) (s : State) (hmode : m.mode = s.mgu.mode) (hconfig : m.config = s.mgu.config)
    (hclasses : m.nodeClasses = s.mgu.nodeClasses) : EventsOnly s (onMgu (fun _ => m) s) :=
  ⟨⟨rfl, rfl, rfl, rfl, rfl, rfl⟩, rfl, rfl, rfl, ⟨rfl, rfl, rfl, rfl, rfl⟩, hmode, hconfig, hclasses⟩

/-- A request whose owner makes a state with the event cells and the report destination changed. -/
theorem eventsOnly_takeRequest {b : Bool} {f : Frame} {r : Request} {s : State} (h : ∃ m : Mgu, (r.owner (asked s)).1 =
    onMgu (fun _ => m) (asked s) ∧ m.mode = s.mgu.mode ∧ m.config = s.mgu.config ∧ m.nodeClasses = s.mgu.nodeClasses) :
    EventsOnly s (takeRequest b f r s) := by
  rcases takeRequest_cases b f r s with hlink | heq
  · exact .of_link hlink
  · obtain ⟨m, hm, hmode, hconfig, hclasses⟩ := h
    rw [heq, hm]
    exact ((EventsOnly.of_link (linkOnly_asked s)).trans (eventsOnly_onMgu m (asked s) hmode hconfig hclasses)).trans
      (.of_link (linkOnly_answered f _ _))

theorem enableEvents_events (f : Frame) (s : State) : ∃ m : Mgu, (enableEvents f s).1 = onMgu (fun _ => m) s ∧
    m.mode = s.mgu.mode ∧ m.config = s.mgu.config ∧ m.nodeClasses = s.mgu.nodeClasses :=
  ⟨(enableEvents f s).1.mgu, rfl, rfl, rfl, rfl⟩

theorem clearEvents_events (f : Frame) (s : State) : ∃ m : Mgu, (clearEvents f s).1 = onMgu (fun _ => m) s ∧
    m.mode = s.mgu.mode ∧ m.config = s.mgu.config ∧ m.nodeClasses = s.mgu.nodeClasses :=
  ⟨(clearEvents f s).1.mgu, rfl, rfl, rfl, rfl⟩

/-- Settles O35: row by row, the operations of the effect move the ring link only. -/
theorem linkCommandsLeaveTheBooks : Obligations.LinkCommandsLeaveTheBooks := by
  refine ⟨fun row hrow f s t h => ?rows, fun wire s t h => ?bad, fun s t h => ?boundary, fun s t h => ?silence, fun f s t h => ?events⟩
  case rows =>
    obtain ⟨u, hu, hlink⟩ := linkOnly_linkRows f s row hrow
    rw [hu] at h; cases h; exact hlink
  case bad =>
    cases h
    split
    · exact (linkOnly_dropBad s).trans (linkOnly_startPortB _)
    · exact .refl s
  case boundary =>
    cases h
    exact (linkOnly_onRlu _ s rfl).trans (linkOnly_choose _)
  case silence =>
    cases h
    show LinkOnly s (atDeadline _ _ s)
    unfold atDeadline
    split
    · exact (linkOnly_silenceTest s).trans (linkOnly_startPortB _)
    · exact .refl s
  case events =>
    rcases h with h | h
    · have heq : t = takeRequest (asks f 8) f (setupRequest (argsLength f 4) (enableEvents f)) s := (Host.Outcome.next.inj h).symm
      rw [heq]
      exact eventsOnly_takeRequest (enableEvents_events f (asked s))
    · have heq : t = takeRequest (asks f 9) f (setupRequest (argsLength f 4) (clearEvents f)) s := (Host.Outcome.next.inj h).symm
      rw [heq]
      exact eventsOnly_takeRequest (clearEvents_events f (asked s))

end Sys2Proof.Machine
end

section
/-! TABLE-WRITE (R3 to R5, R45, R173, R182, R183): the entries checked one by one, and the table that an accepted write leaves. -/

namespace Sys2Proof.Tab

variable {α : Type} {n : Nat}

/-- A table's entries in the order of their indices. -/
theorem cells_eq_map_get (t : Tab α n) : t.cells = (List.finRange n).map t.get :=
  List.ext_getElem (by rw [t.size, List.length_map, List.length_finRange]) (fun i h1 h2 => by simp [get])

end Sys2Proof.Tab

namespace Sys2Proof.Machine

/-! ### Clamping and codes -/

theorem clampNat_eq {lo hi : Nat} (h : lo ≤ hi) (n : Nat) : clampNat lo hi n = max lo (min hi n) := by
  unfold clampNat
  split_ifs <;> omega

theorem channelKind_ofCode_none : ∀ {n : Nat}, ChannelKind.ofCode n = none ↔ 5 < n
  | 0 | 1 | 2 | 3 | 4 | 5 => by simp [ChannelKind.ofCode]
  | n + 6 => by simp [ChannelKind.ofCode]

theorem field_flag_le {bs : List Byte} {off : Nat} : badFlag bs off = true ↔ 1 < field bs off 1 := decide_eq_true_iff

theorem flagAt_eq (bs : List Byte) (off : Nat) : flagAt bs off = decide (field bs off 1 = 1) := rfl

/-! ### The entries of a write, checked and placed -/

/-- The entries are taken when every one of them is. -/
theorem collect_some {α β : Type} {g : α → Option β} {h : α → β} {xs : List α} (hx : ∀ x ∈ xs, g x = some (h x)) :
    collect (xs.map g) = some (xs.map h) := by
  induction xs with
  | nil => rfl
  | cons x xs ih =>
    rw [List.forall_mem_cons] at hx
    rw [List.map_cons, List.map_cons, hx.1, collect, ih hx.2]
    rfl

/-- None is taken when one of them is refused. -/
theorem collect_none {α β : Type} {g : α → Option β} {xs : List α} {x : α} (hx : x ∈ xs) (h : g x = none) :
    collect (xs.map g) = none := by
  induction xs with
  | nil => cases hx
  | cons y ys ih =>
    rw [List.map_cons]
    cases hy : g y with
    | none => rfl
    | some z =>
      rw [collect, ih ((List.mem_cons.mp hx).resolve_left (fun e => by rw [← e, h] at hy; cases hy))]
      rfl

theorem length_writtenEntries (f : Frame) (size : Nat) : (writtenEntries f size).length = arg f 2 1 := entryChunks_length _ _ _

/-- The table that a write of an entry by entry list leaves, inside and outside its window. -/
theorem putWritten_get {α : Type} {n : Nat} {f : Frame} {xs : List α} (g : Nat → α)
    (hlength : xs.length = arg f 2 1) (hxs : ∀ i, InWindow f i → xs[i - arg f 1 1]? = some (g i)) (t : Tab α n) (i : Fin n) :
    (InWindow f i → (t.putFrom (arg f 1 1) xs).get i = g i) ∧
    (¬ InWindow f i → (t.putFrom (arg f 1 1) xs).get i = t.get i) := by
  rw [Tab.get_putFrom]
  refine ⟨fun hi => ?_, fun hi => ?_⟩
  · rw [if_pos hi.1, hxs i hi]; rfl
  · split
    · rw [List.getElem?_eq_none (by rw [hlength]; omega)]; rfl
    · rfl

/-- The same for entries that are each made from the bytes of one. -/
theorem putMapped_get {α : Type} {n : Nat} {f : Frame} {size : Nat} (h : List Byte → α) (t : Tab α n) (i : Fin n) :
    (InWindow f i → (t.putFrom (arg f 1 1) ((writtenEntries f size).map h)).get i = h (entryFor f size i)) ∧
    (¬ InWindow f i → (t.putFrom (arg f 1 1) ((writtenEntries f size).map h)).get i = t.get i) :=
  putWritten_get (fun i => h (entryFor f size i)) (by rw [List.length_map, length_writtenEntries])
    (fun i hi => by rw [List.getElem?_map, writtenEntries_get f size hi]; rfl) t i

/-! ### Windows (R182) -/

theorem inWindow_inside {f : Frame} {lo hi : Nat} (hlo : lo ≤ arg f 1 1) (hhi : arg f 1 1 + arg f 2 1 ≤ hi + 1)
    (owner : State → State × Answer) (s : State) : inWindow f lo hi owner s = owner s :=
  if_pos (windowIn_iff.mpr ⟨hlo, hhi⟩)

theorem inWindow_outside {f : Frame} {lo hi : Nat} (h : arg f 1 1 < lo ∨ hi + 1 < arg f 1 1 + arg f 2 1)
    (owner : State → State × Answer) (s : State) : inWindow f lo hi owner s = (s, refusal .outOfRange) :=
  if_neg (by rw [windowIn_iff]; omega)

/-- A table write row: a request served in either mode, whose owner keeps to its window. -/
def RequestRow.WritesWindow (r : RequestRow) (lo hi : Nat) (f : Frame) (s : State) : Prop :=
  (r.ofRow f = true → 3 ≤ f.payload.length) ∧
  ∃ (q : Request) (owner : State → State × Answer), exec (r.row f) s = .next (takeRequest (r.ofRow f) f q s) ∧
    q.form = r.form f ∧ (∀ c, q.may (asked s) c = r.may f s c) ∧ q.job = false ∧ q.owner = inWindow f lo hi owner

theorem tableWriteRows_window (f : Frame) (s : State) :
    ∀ p ∈ tableWriteRows.zip writeIndices, p.1.WritesWindow p.2.1 p.2.2 f s := by
  simp only [tableWriteRows, writeIndices, List.zip_cons_cons, List.zip_nil_right, List.forall_mem_cons, List.not_mem_nil,
    false_imp_iff, implies_true, and_true]
  refine ⟨?_, ?_, ?_, ?_, ?_, ?_, ?_⟩ <;> exact ⟨length_of_asksOf, _, _, rfl, rfl, fun _ => rfl, rfl, rfl⟩

/-- The answer of a table write within its window, by the checks of its own table. -/
theorem windowWrite_answered {s : State} {f : Frame} {code : Nat} (h : Asked s f) (hof : asksOf f 2 code = true) {form : Bool}
    (hform : form = true) {may : State → NodeClass → Bool} (hmay : may (asked s) (classOf s f.src.toNat) = true) {lo hi : Nat}
    (hlo : lo ≤ arg f 1 1) (hhi : arg f 1 1 + arg f 2 1 ≤ hi + 1) (owner : State → State × Answer) :
    (.next (takeRequest (asksOf f 2 code) f ⟨form, may, false, inWindow f lo hi owner⟩ s) : Host.Outcome State Fault Refusal) =
      .next (answered f (owner (asked s)).2 (owner (asked s)).1) := by
  rw [hof, takeRequest_owner h (length_of_asksOf hof) _ hform hmay (fun h => by cases h)]
  show Host.Outcome.next (answered f (inWindow f lo hi owner (asked s)).2 (inWindow f lo hi owner (asked s)).1) = _
  rw [inWindow_inside hlo hhi]

/-! ### Node classes (R182) -/

/-- The bytes of a node-class entry name no class, no flag, or no address or mask. -/
def classEntryBad (e : List Byte) : Prop :=
  1 < field e 0 1 ∨ 127 < field e 1 1 ∨ 127 < field e 2 1 ∨ ¬ (field e 3 1 = 1 ∨ field e 3 1 = 2)

/-- The entry that good bytes write. -/
def classEntryOf (e : List Byte) : NodeClassEntry := ⟨flagAt e 0, field e 1 1, field e 2 1, decide (field e 3 1 = 2)⟩

theorem writtenNodeClass_bad {e : List Byte} (h : classEntryBad e) : writtenNodeClass e = none := by
  refine if_neg (fun hgood => ?_)
  rw [Bool.and_eq_true, Bool.not_eq_true', decide_eq_true_eq, badFlag, decide_eq_false_iff_not] at hgood
  unfold classEntryBad at h
  omega

theorem writtenNodeClass_good {e : List Byte} (h : ¬ classEntryBad e) : writtenNodeClass e = some (classEntryOf e) := by
  refine if_pos ?_
  rw [Bool.and_eq_true, Bool.not_eq_true', decide_eq_true_eq, badFlag, decide_eq_false_iff_not]
  unfold classEntryBad at h
  omega

/-- Settles O36: the rows' owners keep to their windows, and the node-class entries are taken together or not at all. -/
theorem tableWritesKeepToTheirWindows : Obligations.TableWritesKeepToTheirWindows := by
  intro f s hasked c
  refine ⟨fun p hp hrow hform hmay hout => ?outside, fun hop hhead => ⟨fun hof hlo hhi => ?recipe, fun hof hhi => ?bales⟩,
    fun hof hform hclass hwindow => ?classes⟩
  case outside =>
    obtain ⟨hlength, q, owner, hexec, hqform, hqmay, hqjob, hqowner⟩ := tableWriteRows_window f s p hp
    rw [hexec, hrow, takeRequest_owner hasked (hlength hrow) q (hqform.trans hform) ((hqmay _).trans hmay)
      (fun h => by rw [hqjob] at h; cases h), hqowner, inWindow_outside hout]
  case recipe => exact windowWrite_answered hasked hof hhead hop hlo hhi refuseWrite
  case bales => exact windowWrite_answered hasked hof hhead hop (Nat.zero_le _) hhi refuseWrite
  case classes =>
    intro bad
    have hmay : mayWriteClasses (asked s) c = true := by
      rw [mayWriteClasses, Bool.or_eq_true, Bool.not_eq_true', isWeighmaster_iff]; exact hclass
    have hexec : exec (.tableWriteNodeClass f) s = .next (answered f (writeNodeClasses f (asked s)).2
        (writeNodeClasses f (asked s)).1) := windowWrite_answered hasked hof hform hmay (Nat.zero_le _) hwindow _
    refine ⟨fun ⟨i, hi, hbad⟩ => ?_, fun hgood => ?_⟩
    · have hnone := collect_none ((mem_writtenEntries f 4 _).mpr ⟨i, hi, rfl⟩) (writtenNodeClass_bad hbad)
      rw [hexec, writeNodeClasses, hnone]
    · have hsome : collect ((writtenEntries f 4).map writtenNodeClass) = some ((writtenEntries f 4).map classEntryOf) :=
        collect_some (fun bs hbs => by
          obtain ⟨i, hi, rfl⟩ := (mem_writtenEntries f 4 bs).mp hbs
          exact writtenNodeClass_good (hgood i hi))
      refine ⟨s.mgu.nodeClasses.putFrom (arg f 1 1) ((writtenEntries f 4).map classEntryOf), ?_,
        fun i hi => (putMapped_get classEntryOf _ i).2 hi, fun i hi => (putMapped_get classEntryOf _ i).1 hi⟩
      rw [hexec, writeNodeClasses, hsome]
      rfl

/-! ### Channels (R2 to R5) -/

/-- The kind that a channel entry names; GENERIC where it names none, and is refused. -/
def entryKind (e : List Byte) : ChannelKind := (ChannelKind.ofCode (field e 3 1)).getD .generic

/-- The low limit that a channel entry gives, clamped to its kind's range. -/
def entryLow (e : List Byte) : Int := clampInt (kindRange (entryKind e)).1 (kindRange (entryKind e)).2 (fieldInt e 11 4)

/-- The high limit that a channel entry gives, clamped to its kind's range. -/
def entryHigh (e : List Byte) : Int := clampInt (kindRange (entryKind e)).1 (kindRange (entryKind e)).2 (fieldInt e 15 4)

/-- The range checks of R3 refuse the bytes of a channel entry. -/
def channelEntryBad (e : List Byte) : Prop :=
  1 < field e 0 1 ∨ field e 1 1 = 0 ∨ 126 < field e 1 1 ∨ 15 < field e 2 1 ∨ 5 < field e 3 1 ∨ entryHigh e < entryLow e

/-- The channel that good bytes write, its status reset (R4). -/
def channelEntryOf (e : List Byte) : Channel :=
  ⟨flagAt e 0, field e 1 1, field e 2 1, entryKind e, fieldInt e 4 2, fieldInt e 6 4, min (field e 10 1) 7, entryLow e, entryHigh e,
    .unseen, 0, false, false, none, none⟩

/-- A field of the channel entry is clamped. -/
def channelEntryClamped (e : List Byte) : Bool :=
  decide (entryLow e ≠ fieldInt e 11 4 ∨ entryHigh e ≠ fieldInt e 15 4 ∨ min (field e 10 1) 7 ≠ field e 10 1)

theorem channelInRange_iff {e : List Byte} : channelInRange e = true ↔
    ¬ 1 < field e 0 1 ∧ 1 ≤ field e 1 1 ∧ field e 1 1 ≤ 126 ∧ field e 2 1 ≤ 15 := by
  rw [channelInRange, Bool.and_eq_true, Bool.not_eq_true', badFlag, decide_eq_false_iff_not, decide_eq_true_eq]

theorem writtenChannel_named {e : List Byte} {kind : ChannelKind} (h : ChannelKind.ofCode (field e 3 1) = some kind) :
    writtenChannel e = if channelInRange e && decide (entryLow e ≤ entryHigh e) then
      some (channelEntryOf e, channelEntryClamped e) else none := by
  simp only [writtenChannel, channelEntryOf, channelEntryClamped, entryLow, entryHigh, entryKind, h, Option.getD_some]
  rfl

theorem writtenChannel_bad {e : List Byte} (h : channelEntryBad e) : writtenChannel e = none := by
  cases hkind : ChannelKind.ofCode (field e 3 1) with
  | none => rw [writtenChannel, hkind]
  | some kind =>
    have hcode : ¬ 5 < field e 3 1 := fun hc => by rw [channelKind_ofCode_none.mpr hc] at hkind; cases hkind
    rw [writtenChannel_named hkind]
    refine if_neg (fun hgood => ?_)
    rw [Bool.and_eq_true, channelInRange_iff, decide_eq_true_eq] at hgood
    unfold channelEntryBad at h
    omega

theorem writtenChannel_good {e : List Byte} (h : ¬ channelEntryBad e) :
    writtenChannel e = some (channelEntryOf e, channelEntryClamped e) := by
  unfold channelEntryBad at h
  cases hkind : ChannelKind.ofCode (field e 3 1) with
  | none => exact absurd (channelKind_ofCode_none.mp hkind) (by omega)
  | some kind =>
    rw [writtenChannel_named hkind]
    refine if_pos ?_
    rw [Bool.and_eq_true, channelInRange_iff, decide_eq_true_eq]
    omega

/-- No two valid entries have one pair of source node and source channel (R2). -/
theorem sourcePairs_nodup {t : Tab Channel 64} : (sourcePairs t).Nodup ↔
    ∀ i j, i ≠ j → (t.get i).valid = true → (t.get j).valid = true →
      ((t.get i).sourceNode, (t.get i).sourceChannel) ≠ ((t.get j).sourceNode, (t.get j).sourceChannel) := by
  have heq : sourcePairs t = ((List.finRange 64).filter (fun i => (t.get i).valid)).map
      (fun i => ((t.get i).sourceNode, (t.get i).sourceChannel)) := by
    rw [sourcePairs, t.cells_eq_map_get, List.filter_map, List.map_map]
    rfl
  rw [heq, List.nodup_map_iff_inj_on ((List.nodup_finRange 64).filter _)]
  simp only [List.mem_filter, List.mem_finRange, true_and]
  exact ⟨fun h i j hne hi hj he => hne (h i hi j hj he), fun h i hi j hj he => by_contra fun hne => h i j hne hi hj he⟩

/-- Settles O37: the entries are taken by R3 together or not at all, the table is the one that the statement describes, and the
notices are those of `leavingNotices_spec`. -/
theorem channelWritesAreCheckedAndTaken : Obligations.ChannelWritesAreCheckedAndTaken := by
  intro f s hasked hof hform hmay hwindow entry kind low high bad
  have hexec : exec (.tableWriteChannel f) s = .next (answered f (writeChannels f (asked s)).2 (writeChannels f (asked s)).1) :=
    windowWrite_answered (may := mayWriteChannels f) hasked hof hform hmay (Nat.zero_le _) hwindow _
  rw [hexec]
  refine ⟨fun ⟨i, hi, hbad⟩ => ?refused, fun hgood t hout hin => ?taken⟩
  case refused =>
    rw [writeChannels, collect_none ((mem_writtenEntries f 19 _).mpr ⟨i, hi, rfl⟩) (writtenChannel_bad hbad)]
  case taken =>
    intro pair
    have hsome := collect_some (h := fun e => (channelEntryOf e, channelEntryClamped e)) (fun bs hbs => by
      obtain ⟨i, hi, rfl⟩ := (mem_writtenEntries f 19 bs).mp hbs
      exact writtenChannel_good (hgood i hi))
    have htable : s.channels.putFrom (arg f 1 1) ((writtenEntries f 19).map channelEntryOf) = t := Tab.ext_get (fun i => by
      by_cases hi : InWindow f i
      · rw [(putMapped_get channelEntryOf s.channels i).1 hi, hin i hi]; rfl
      · rw [(putMapped_get channelEntryOf s.channels i).2 hi, hout i hi])
    have hwrite : writeChannels f (asked s) = if (sourcePairs t).Nodup then
        (deliverAll (leavingNotices s.clock (fun i => inWrite f i.val) (asked s)) { asked s with channels := t },
          doneClamped ((writtenEntries f 19).any channelEntryClamped))
        else (asked s, refusal .duplicate) := by
      rw [writeChannels, hsome, ← htable]
      simp only [List.map_map, List.any_map]
      rfl
    rw [hwrite]
    refine ⟨fun ⟨i, j, hne, hi, hj, he⟩ => ?_, fun hpairs => ?_⟩
    · rw [if_neg (fun hnodup => sourcePairs_nodup.mp hnodup i j hne hi hj he)]
    · rw [if_pos (sourcePairs_nodup.mpr hpairs)]
      obtain ⟨hnotices, hnodup⟩ := leavingNotices_spec s.clock (fun i => inWrite f i.val) (asked s)
      refine ⟨_, _, rfl, ?_, fun n hn => ?_, hnodup, fun i hi hstate => ⟨_, (hnotices _).mpr ⟨i, decide_eq_true hi, hstate, rfl⟩, rfl⟩⟩
      · rw [List.any_eq_true]
        constructor
        · rintro ⟨bs, hbs, hc⟩
          obtain ⟨i, hi, rfl⟩ := (mem_writtenEntries f 19 bs).mp hbs
          rcases of_decide_eq_true hc with h | h | h
          · exact ⟨i, hi, .inl h⟩
          · exact ⟨i, hi, .inr (.inl h)⟩
          · exact ⟨i, hi, .inr (.inr (by show 7 < field (entryFor f 19 i) 10 1; omega))⟩
        · rintro ⟨i, hi, hc⟩
          refine ⟨_, (mem_writtenEntries f 19 _).mpr ⟨i, hi, rfl⟩, decide_eq_true ?_⟩
          rcases hc with h | h | h
          · exact .inl h
          · exact .inr (.inl h)
          · exact .inr (.inr (by have h7 : 7 < field (entryFor f 19 i) 10 1 := h; omega))
      · obtain ⟨i, hi, hstate, rfl⟩ := (hnotices n).mp hn
        exact ⟨i, of_decide_eq_true hi, hstate, rfl⟩

end Sys2Proof.Machine
end

section
/-! The writes of the actuator table, the kiln setup entries and the CONFIG record (R45, R170, R173, R183). -/

namespace Sys2Proof.Machine

/-! ### Actuators (R170, R173) -/

/-- R173 answers OUT-OF-RANGE to the bytes of an actuator entry. -/
def actuatorEntryBad (e : List Byte) : Prop :=
  1 < field e 0 1 ∨ field e 1 1 = 0 ∨ 126 < field e 1 1 ∨ 6 < field e 3 1 ∨
    ((field e 3 1 = 1 ∨ field e 3 1 = 2) ∧ 3 < field e 4 1)

/-- Another valid entry of the table names the same actuator. -/
def actuatorDouble (t : Tab Actuator 24) (i : Fin 24) : Prop :=
  ∃ j, j ≠ i ∧ (t.get i).valid = true ∧ (t.get j).valid = true ∧ entryActuator (t.get i) = entryActuator (t.get j)

/-- The codes of BURNER and FAN, the functions that need a kiln. -/
theorem writtenFunction_kiln {e : List Byte} :
    (writtenFunction e = .burner ∨ writtenFunction e = .fan) ↔ (field e 3 1 = 1 ∨ field e 3 1 = 2) := by
  unfold writtenFunction
  match field e 3 1 with
  | 0 | 1 | 2 | 3 | 4 | 5 | 6 => simp [ActuatorFunction.ofCode]
  | n + 7 => simp [ActuatorFunction.ofCode]

theorem actuatorOutOfRange_iff {e : List Byte} : actuatorOutOfRange e = true ↔ actuatorEntryBad e := by
  unfold actuatorOutOfRange actuatorEntryBad
  rw [Bool.or_eq_true, Bool.or_eq_true, Bool.and_eq_true, badFlag, decide_eq_true_eq, decide_eq_true_eq, decide_eq_true_eq,
    decide_eq_true_eq, writtenFunction_kiln]
  omega

theorem sameActuator_iff {a b : Actuator} :
    sameActuator a b = true ↔ a.valid = true ∧ b.valid = true ∧ entryActuator a = entryActuator b := by
  rw [sameActuator, Bool.and_eq_true, Bool.and_eq_true, decide_eq_true_eq, entryActuator, entryActuator, Prod.mk.injEq, and_assoc]

theorem actuatorTaken_iff {t : Tab Actuator 24} {i : Fin 24} : actuatorTaken t i.val = true ↔ actuatorDouble t i := by
  unfold actuatorTaken actuatorDouble
  rw [List.any_eq_true]
  constructor
  · rintro ⟨j, hj, h⟩
    rw [Bool.and_eq_true, decide_eq_true_eq] at h
    have hlt : j < 24 := List.mem_range.mp hj
    refine ⟨⟨j, hlt⟩, fun he => h.1 (congrArg Fin.val he), ?_⟩
    rw [← t.getD_val i Actuator.powerOn, ← t.getD_val ⟨j, hlt⟩ Actuator.powerOn]
    exact sameActuator_iff.mp h.2
  · rintro ⟨j, hne, h⟩
    refine ⟨j.val, List.mem_range.mpr j.isLt, ?_⟩
    rw [Bool.and_eq_true, decide_eq_true_eq, t.getD_val, t.getD_val]
    exact ⟨fun he => hne (Fin.ext he), sameActuator_iff.mpr h⟩

/-- Entries that pass are passed over. -/
theorem actuatorFailure_drop {t : Tab Actuator 24} (m : Nat) : ∀ (i : Nat) (es : List (List Byte)), m ≤ es.length →
    (∀ j e, j < m → es[j]? = some e → actuatorOutOfRange e = false ∧ actuatorTaken t (i + j) = false) →
    actuatorFailure t i es = actuatorFailure t (i + m) (es.drop m) := by
  induction m with
  | zero => exact fun i es _ _ => rfl
  | succ m ih =>
    intro i es hm hok
    cases es with
    | nil => cases hm
    | cons e es =>
      obtain ⟨hrange, hfree⟩ := hok 0 e (Nat.zero_lt_succ m) rfl
      rw [actuatorFailure, if_neg (by rw [hrange]; decide), if_neg (by rw [show actuatorTaken t i = false from hfree]; decide),
        ih (i + 1) es (Nat.le_of_succ_le_succ hm) (fun j x hj hx => by
          have := hok (j + 1) x (Nat.succ_lt_succ hj) hx
          rwa [Nat.add_succ, ← Nat.succ_add] at this), List.drop_succ_cons, Nat.add_assoc, Nat.add_comm 1 m]

/-- The first entry that does not pass decides. -/
theorem actuatorFailure_at {t : Tab Actuator 24} {i m : Nat} {es : List (List Byte)} {e : List Byte} (he : es[m]? = some e)
    (hok : ∀ j x, j < m → es[j]? = some x → actuatorOutOfRange x = false ∧ actuatorTaken t (i + j) = false) :
    (actuatorOutOfRange e = true → actuatorFailure t i es = some .outOfRange) ∧
    (actuatorOutOfRange e = false → actuatorTaken t (i + m) = true → actuatorFailure t i es = some .duplicate) := by
  have hm : m < es.length := (List.getElem?_eq_some_iff.mp he).1
  rw [actuatorFailure_drop m i es hm.le hok, List.drop_eq_getElem_cons hm, (List.getElem?_eq_some_iff.mp he).2, actuatorFailure]
  exact ⟨fun h => if_pos h, fun h h' => by rw [if_neg (by rw [h]; decide), if_pos h']⟩

theorem actuatorFailure_none {t : Tab Actuator 24} {i : Nat} {es : List (List Byte)}
    (hok : ∀ j x, es[j]? = some x → actuatorOutOfRange x = false ∧ actuatorTaken t (i + j) = false) :
    actuatorFailure t i es = none := by
  rw [actuatorFailure_drop es.length i es le_rfl (fun j x _ => hok j x), List.drop_length]
  rfl

theorem actuatorFunction_eq (e : List Byte) : writtenFunction e = (ActuatorFunction.ofCode (field e 3 1)).getD .other := rfl

theorem namedActuator_iff {t : Tab Actuator 24} {c : Command} :
    namedActuator t c = true ↔ ∃ i, (t.get i).valid = true ∧ entryActuator (t.get i) = commandActuator c := by
  unfold namedActuator
  rw [List.any_eq_true]
  constructor
  · rintro ⟨a, ha, h⟩
    obtain ⟨i, rfl⟩ := t.exists_get_of_mem ha
    rw [Bool.and_eq_true, decide_eq_true_eq] at h
    exact ⟨i, h.1, Prod.ext h.2.1 h.2.2⟩
  · rintro ⟨i, hvalid, heq⟩
    refine ⟨_, t.mem_cells i, ?_⟩
    rw [Bool.and_eq_true, decide_eq_true_eq]
    exact ⟨hvalid, congrArg Prod.fst heq, congrArg Prod.snd heq⟩

/-- The table that an actuator write leaves in its window and outside it. -/
theorem putActuators_get (f : Frame) (count : Nat) (t : Tab Actuator 24) (i : Fin 24) :
    (InWindow f i → (t.putFrom (arg f 1 1) (writtenActuators count (writtenEntries f 5))).get i =
      writtenActuator (Config.unusedKiln count (i - arg f 1 1)) (entryFor f 5 i)) ∧
    (¬ InWindow f i → (t.putFrom (arg f 1 1) (writtenActuators count (writtenEntries f 5))).get i = t.get i) :=
  putWritten_get (fun i => writtenActuator (Config.unusedKiln count (i - arg f 1 1)) (entryFor f 5 i))
    (by rw [writtenActuators, List.length_mapIdx, length_writtenEntries])
    (fun i hi => by rw [writtenActuators, List.getElem?_mapIdx, writtenEntries_get f 5 hi]; rfl) t i

theorem kilnOf_le {n : Nat} (h : n ≤ 3) (d : Fin 4) : ((kilnOf n).getD d).val = n := by
  rw [kilnOf, dif_pos (by omega)]
  rfl

/-- An entry carried by a write is that of an index of the window. -/
theorem writtenEntries_index {f : Frame} {size j : Nat} {e : List Byte} (h : (writtenEntries f size)[j]? = some e) :
    InWindow f (arg f 1 1 + j) ∧ e = entryFor f size (arg f 1 1 + j) := by
  have hj : j < arg f 2 1 := by
    have := (List.getElem?_eq_some_iff.mp h).1
    rwa [length_writtenEntries] at this
  have hw : InWindow f (arg f 1 1 + j) := ⟨Nat.le_add_right _ _, by omega⟩
  have he := writtenEntries_get f size hw
  rw [Nat.add_sub_cancel_left, h] at he
  exact ⟨hw, Option.some.inj he⟩

/-- The actuator write: the first entry that does not pass answers, else the table is replaced and the queue purged. -/
theorem actuatorTableWrites {f : Frame} {s : State} (h : OperatorAsks s f) (hof : asksOf f 2 2 = true)
    (hform : writeForm f 5 = true) (hwindow : arg f 1 1 + arg f 2 1 ≤ 24) :
    let t := s.actuators.putFrom (arg f 1 1) (writtenActuators s.freeCount (writtenEntries f 5))
    let pass (i : Fin 24) := ¬ actuatorEntryBad (entryFor f 5 i) ∧ ¬ actuatorDouble t i
    (∀ i : Fin 24, InWindow f i → (∀ j : Fin 24, j < i → InWindow f j → pass j) →
      (actuatorEntryBad (entryFor f 5 i) →
        exec (.tableWriteActuator f) s = .next (answered f (refusal .outOfRange) (asked s))) ∧
      (¬ actuatorEntryBad (entryFor f 5 i) → actuatorDouble t i →
        exec (.tableWriteActuator f) s = .next (answered f (refusal .duplicate) (asked s)))) ∧
    ((∀ i : Fin 24, InWindow f i → pass i) → exec (.tableWriteActuator f) s =
      .next (answered f (done []) (purgeCommands t (setActuators t (useFreeValue (asked s)))))) := by
  intro t pass
  have hexec : exec (.tableWriteActuator f) s = .next (answered f (writeActuators f (asked s)).2 (writeActuators f (asked s)).1) :=
    windowWrite_answered h.1 hof hform h.2 (Nat.zero_le _) hwindow _
  have hwrite : writeActuators f (asked s) = match actuatorFailure t (arg f 1 1) (writtenEntries f 5) with
      | some st => (asked s, refusal st)
      | none => (purgeCommands t (setActuators t (useFreeValue (asked s))), done []) := rfl
  have hpass (j : Nat) (e : List Byte) (he : (writtenEntries f 5)[j]? = some e)
      (hall : ∀ i : Fin 24, i.val = arg f 1 1 + j → InWindow f i → pass i) :
      actuatorOutOfRange e = false ∧ actuatorTaken t (arg f 1 1 + j) = false := by
    obtain ⟨hw, rfl⟩ := writtenEntries_index he
    have hlt : arg f 1 1 + j < 24 := lt_of_lt_of_le hw.2 hwindow
    obtain ⟨hgood, hsingle⟩ := hall ⟨arg f 1 1 + j, hlt⟩ rfl hw
    exact ⟨Bool.eq_false_iff.mpr (fun hb => hgood (actuatorOutOfRange_iff.mp hb)),
      Bool.eq_false_iff.mpr (fun hb => hsingle (actuatorTaken_iff.mp hb))⟩
  rw [hexec, hwrite]
  refine ⟨fun i hi hbefore => ?_, fun hall => ?_⟩
  · obtain ⟨hbad, hdouble⟩ := actuatorFailure_at (t := t) (i := arg f 1 1) (writtenEntries_get f 5 hi) (fun j x hj hx =>
      hpass j x hx (fun k hk hkw => hbefore k (Fin.lt_def.mpr (by have := hi.1; omega)) hkw))
    rw [Nat.add_sub_cancel' hi.1] at hdouble
    refine ⟨fun hb => ?_, fun hg hd => ?_⟩
    · rw [hbad (actuatorOutOfRange_iff.mpr hb)]
    · rw [hdouble (Bool.eq_false_iff.mpr (fun hb => hg (actuatorOutOfRange_iff.mp hb))) (actuatorTaken_iff.mpr hd)]
  · rw [actuatorFailure_none (fun j x hx => hpass j x hx (fun k _ hkw => hall k hkw))]

/-! ### Kiln setup entries (R45) -/

/-- R45 answers OUT-OF-RANGE to the bytes of a kiln setup entry. -/
def setupEntryBad (e : List Byte) : Prop :=
  1 < field e 0 1 ∨ 63 < field e 1 1 ∨ 63 < field e 2 1 ∨ 63 < field e 3 1 ∨ 23 < field e 4 1 ∨ 23 < field e 5 1 ∨
    8 < field e 14 1 ∨ 1 < field e 15 1

theorem setupOutOfRange_iff {e : List Byte} : setupOutOfRange e = true ↔ setupEntryBad e := by
  unfold setupOutOfRange setupEntryBad
  rw [Bool.or_eq_true, Bool.or_eq_true, badFlag, badFlag, decide_eq_true_eq, decide_eq_true_eq, decide_eq_true_eq]
  omega

/-- Entries of EMPTY kilns that are in range are passed over. -/
theorem setupFailure_drop {s : State} (m : Nat) : ∀ (k : Nat) (es : List (List Byte)), m ≤ es.length →
    (∀ j e, j < m → es[j]? = some e → (s.kilns.getD (k + j) Kiln.powerOn).state = .empty ∧ setupOutOfRange e = false) →
    setupFailure s k es = setupFailure s (k + m) (es.drop m) := by
  induction m with
  | zero => exact fun k es _ _ => rfl
  | succ m ih =>
    intro k es hm hok
    cases es with
    | nil => cases hm
    | cons e es =>
      obtain ⟨hempty, hrange⟩ := hok 0 e (Nat.zero_lt_succ m) rfl
      rw [Nat.add_zero] at hempty
      rw [setupFailure, if_neg (not_not.mpr hempty), if_neg (by rw [hrange]; decide),
        ih (k + 1) es (Nat.le_of_succ_le_succ hm) (fun j x hj hx => by
          have := hok (j + 1) x (Nat.succ_lt_succ hj) hx
          rwa [Nat.add_succ, ← Nat.succ_add] at this), List.drop_succ_cons, Nat.add_assoc, Nat.add_comm 1 m]

/-- The first entry that does not pass decides. -/
theorem setupFailure_at {s : State} {k m : Nat} {es : List (List Byte)} {e : List Byte} (he : es[m]? = some e)
    (hok : ∀ j x, j < m → es[j]? = some x → (s.kilns.getD (k + j) Kiln.powerOn).state = .empty ∧ setupOutOfRange x = false) :
    ((s.kilns.getD (k + m) Kiln.powerOn).state ≠ .empty → setupFailure s k es = some .refusedState) ∧
    ((s.kilns.getD (k + m) Kiln.powerOn).state = .empty → setupOutOfRange e = true → setupFailure s k es = some .outOfRange) := by
  have hm : m < es.length := (List.getElem?_eq_some_iff.mp he).1
  rw [setupFailure_drop m k es hm.le hok, List.drop_eq_getElem_cons hm, (List.getElem?_eq_some_iff.mp he).2, setupFailure]
  exact ⟨fun h => if_pos h, fun h h' => by rw [if_neg (not_not.mpr h), if_pos h']⟩

theorem setupFailure_none {s : State} {k : Nat} {es : List (List Byte)}
    (hok : ∀ j x, es[j]? = some x → (s.kilns.getD (k + j) Kiln.powerOn).state = .empty ∧ setupOutOfRange x = false) :
    setupFailure s k es = none := by
  rw [setupFailure_drop es.length k es le_rfl (fun j x _ => hok j x), List.drop_length]
  rfl

theorem writtenSetup_entry (e : List Byte) : (writtenSetup e).1 =
    ⟨field e 0 1 = 1, field e 1 1, field e 2 1, field e 3 1, field e 4 1, field e 5 1,
      max 1000000 (min 20000000 (field e 6 4)), max 300 (min 900 (field e 10 2)), min 1000 (field e 12 2), field e 14 1,
      field e 15 1 = 1⟩ := by
  rw [← clampNat_eq (by decide) (field e 6 4), ← clampNat_eq (by decide) (field e 10 2), Nat.min_comm 1000]
  rfl

theorem writtenSetup_clamped (e : List Byte) : (writtenSetup e).2 = true ↔
    (field e 6 4 < 1000000 ∨ 20000000 < field e 6 4 ∨ field e 10 2 < 300 ∨ 900 < field e 10 2 ∨ 1000 < field e 12 2) := by
  rw [writtenSetup, decide_eq_true_eq, clampNat_eq (by decide), clampNat_eq (by decide)]
  omega

/-- The kiln setup write: the first entry that does not pass answers, else the entries are replaced and the tests made. -/
theorem kilnSetupWrites {f : Frame} {s : State} (h : OperatorAsks s f) (hof : asksOf f 2 4 = true)
    (hform : writeForm f 16 = true) (hwindow : arg f 1 1 + arg f 2 1 ≤ 4) :
    let good (k : Fin 4) := (s.kilns.get k).state = .empty ∧ ¬ setupEntryBad (entryFor f 16 k)
    let t := s.kfr.setups.putFrom (arg f 1 1) ((writtenEntries f 16).map (fun e => (writtenSetup e).1))
    (∀ k : Fin 4, InWindow f k → (∀ j : Fin 4, j < k → InWindow f j → good j) →
      ((s.kilns.get k).state ≠ .empty → exec (.tableWriteKilnSetup f) s = .next (answered f (refusal .refusedState) (asked s))) ∧
      ((s.kilns.get k).state = .empty → setupEntryBad (entryFor f 16 k) →
        exec (.tableWriteKilnSetup f) s = .next (answered f (refusal .outOfRange) (asked s)))) ∧
    ((∀ k : Fin 4, InWindow f k → good k) → exec (.tableWriteKilnSetup f) s =
      .next (answered f (doneClamped ((writtenEntries f 16).any (fun e => (writtenSetup e).2)))
        (decideFeed (lowRoomClose (selectKiln (onKfr (fun b => { b with setups := t }) (asked s))))))) := by
  intro good t
  have hexec : exec (.tableWriteKilnSetup f) s = .next (answered f (writeSetups f (asked s)).2 (writeSetups f (asked s)).1) :=
    windowWrite_answered h.1 hof hform h.2 (Nat.zero_le _) hwindow _
  have hwrite : writeSetups f (asked s) = match setupFailure s (arg f 1 1) (writtenEntries f 16) with
      | some st => (asked s, refusal st)
      | none => (decideFeed (lowRoomClose (selectKiln (onKfr (fun b => { b with setups := t }) (asked s)))),
          doneClamped ((writtenEntries f 16).any (fun e => (writtenSetup e).2))) := by
    have hfail : setupFailure (asked s) (arg f 1 1) (writtenEntries f 16) = setupFailure s (arg f 1 1) (writtenEntries f 16) := by
      generalize arg f 1 1 = k
      induction writtenEntries f 16 generalizing k with
      | nil => rfl
      | cons e es ih => simp only [setupFailure, ih]; rfl
    rw [writeSetups, hfail]
    simp only [List.map_map, List.any_map]
    rfl
  have hpass (j : Nat) (e : List Byte) (he : (writtenEntries f 16)[j]? = some e)
      (hall : ∀ k : Fin 4, k.val = arg f 1 1 + j → InWindow f k → good k) :
      (s.kilns.getD (arg f 1 1 + j) Kiln.powerOn).state = .empty ∧ setupOutOfRange e = false := by
    obtain ⟨hw, rfl⟩ := writtenEntries_index he
    have hlt : arg f 1 1 + j < 4 := lt_of_lt_of_le hw.2 hwindow
    obtain ⟨hempty, hrange⟩ := hall ⟨arg f 1 1 + j, hlt⟩ rfl hw
    refine ⟨?_, Bool.eq_false_iff.mpr (fun hb => hrange (setupOutOfRange_iff.mp hb))⟩
    rw [← hempty]
    exact congrArg Kiln.state (s.kilns.getD_val ⟨arg f 1 1 + j, hlt⟩ Kiln.powerOn)
  rw [hexec, hwrite]
  refine ⟨fun k hk hbefore => ?_, fun hall => ?_⟩
  · obtain ⟨hstate, hrange⟩ := setupFailure_at (s := s) (k := arg f 1 1) (writtenEntries_get f 16 hk) (fun j x hj hx =>
      hpass j x hx (fun i hi hiw => hbefore i (Fin.lt_def.mpr (by have := hk.1; omega)) hiw))
    rw [Nat.add_sub_cancel' hk.1, s.kilns.getD_val] at hstate hrange
    refine ⟨fun hne => ?_, fun hempty hbad => ?_⟩
    · rw [hstate hne]
    · rw [hrange hempty (setupOutOfRange_iff.mpr hbad)]
  · rw [setupFailure_none (fun j x hx => hpass j x hx (fun k _ hkw => hall k hkw))]

/-- Settles O38: the two writes, and the tables that they leave. -/
theorem actuatorAndKilnSetupWrites : Obligations.ActuatorAndKilnSetupWrites := by
  refine ⟨fun f s hasks hof hform hwindow => ?actuators, fun f s hasks hof hform hwindow => ?setups⟩
  case actuators =>
    intro entry bad
    obtain ⟨hfirst, hall⟩ := actuatorTableWrites hasks hof hform hwindow
    refine ⟨_, fun i hi => (putActuators_get f s.freeCount _ i).2 hi, fun i hi => ?_, fun i hi hle => ?_, hfirst, fun hpass =>
      ⟨_, hall hpass, List.filter_sublist, fun c hc => ?_⟩⟩
    · rw [(putActuators_get f s.freeCount _ i).1 hi]; rfl
    · rw [(putActuators_get f s.freeCount _ i).1 hi]; exact kilnOf_le hle _
    · rw [← namedActuator_iff]
      exact ⟨fun h => (List.mem_filter.mp h).2, fun h => List.mem_filter.mpr ⟨hc, h⟩⟩
  case setups =>
    intro entry bad good
    obtain ⟨hfirst, hall⟩ := kilnSetupWrites hasks hof hform hwindow
    refine ⟨hfirst, fun hgood => ⟨_, _, hall hgood, fun k hk => (putMapped_get _ _ k).2 hk, fun k hk => ?_, ?_⟩⟩
    · rw [(putMapped_get _ _ k).1 hk]; exact writtenSetup_entry _
    · rw [List.any_eq_true]
      constructor
      · rintro ⟨e, he, hc⟩
        obtain ⟨i, hi, rfl⟩ := (mem_writtenEntries f 16 e).mp he
        exact ⟨⟨i, lt_of_lt_of_le hi.2 hwindow⟩, hi, (writtenSetup_clamped _).mp hc⟩
      · rintro ⟨k, hk, hc⟩
        exact ⟨_, (mem_writtenEntries f 16 _).mpr ⟨k, hk, rfl⟩, (writtenSetup_clamped _).mpr hc⟩

/-! ### The CONFIG record (R183) -/

/-- The channel indices and node addresses of a CONFIG record are in range (R183 step 1). -/
def ConfigNamed (c : StationConfig) : Prop :=
  c.beltLoad ≤ 63 ∧ c.beltSpeed ≤ 63 ∧ c.pressScale ≤ 63 ∧ c.pressCharge ≤ 63 ∧
    (1 ≤ c.hookNode ∧ c.hookNode ≤ 126) ∧ (1 ≤ c.pressNode ∧ c.pressNode ≤ 126) ∧ 1 ≤ c.unloadNode ∧ c.unloadNode ≤ 126

theorem configInRange_iff {c : StationConfig} : configInRange c = true ↔ ConfigNamed c := by
  simp only [configInRange, nodeInRange, Bool.and_eq_true, decide_eq_true_eq, ConfigNamed, and_assoc]

/-- A CONFIG write that fails a check of R183 answers OUT-OF-RANGE. -/
theorem writeConfig_refused {f : Frame} {s : State}
    (h : ¬ ConfigNamed (carriedConfig f) ∨ (clampConfig (carriedConfig f)).floorCapacity < floorBook s) :
    writeConfig f s = (s, refusal .outOfRange) := by
  refine if_neg (fun hgood => ?_)
  rw [Bool.and_eq_true, configInRange_iff, decide_eq_true_eq] at hgood
  rcases h with h | h
  · exact h hgood.1
  · omega

theorem writeConfig_accepted {f : Frame} {s : State} (hnamed : ConfigNamed (carriedConfig f))
    (hroom : floorBook s ≤ (clampConfig (carriedConfig f)).floorCapacity) :
    writeConfig f s =
      (configWritten s.mgu (onMgu (fun b => { b with config := clampConfig (carriedConfig f), configValid := true }) s),
        doneClamped (decide (clampConfig (carriedConfig f) ≠ carriedConfig f))) :=
  if_pos (by rw [Bool.and_eq_true, configInRange_iff, decide_eq_true_eq]; exact ⟨hnamed, hroom⟩)

/-- The readers of an accepted CONFIG write make their tests in some order. -/
theorem configWritten_spec (before : Mgu) (s : State) : ∃ order : List ConfigReader,
    order.Perm [.itk, .kfr, .uar, .pru, .rlu] ∧
    configWritten before s = order.foldl (configTest (!before.configValid)
      (!before.configValid || decide (before.config.beltLoad ≠ s.mgu.config.beltLoad))) { s with sched := s.sched.tail } := by
  obtain ⟨order, hperm, horder⟩ := inChosenOrder_spec [ConfigReader.itk, .kfr, .uar, .pru, .rlu] s
  refine ⟨order, hperm, ?_⟩
  rw [configWritten, horder]

/-- The belt integration is reset at the first write and where the belt load channel changes (R36). -/
theorem resetBelt_config (before : Mgu) (c : StationConfig) (t : State) :
    resetBelt (!before.configValid || decide (before.config.beltLoad ≠ c.beltLoad)) t =
      if before.configValid = true ∧ before.config.beltLoad = c.beltLoad then t
      else onItk (fun b => { b with prevBelt := none, accumulator := 0 }) t := by
  unfold resetBelt
  cases before.configValid <;> by_cases h : before.config.beltLoad = c.beltLoad <;> simp [h]

theorem retimeSilence_config (valid : Bool) (t : State) : retimeSilence (!valid) t =
    if valid = true then silenceTest t else onRlu (fun r => { r with silenceFrom := some t.clock }) t := by
  cases valid <;> rfl

/-- Settles O39: the checks of `writeConfig`, the record clamped field by field, and the readers' tests in their chosen order. -/
theorem configWritesAreCheckedAndTaken : Obligations.ConfigWritesAreCheckedAndTaken := by
  intro f s hasked hof hform hmay hfirst hcount c node named record
  have hrecord : clampConfig c = record := by
    simp only [clampConfig, clampNat_eq (Nat.zero_le _), clampNat_eq (show 10000 ≤ 1000000 by decide),
      clampNat_eq (show 50 ≤ 1000 by decide), clampNat_eq (show 20000 ≤ 250000 by decide), clampNat_eq (show 1 ≤ 60 by decide),
      clampNat_eq (show 50 ≤ 150 by decide), clampNat_eq (show 5 ≤ 120 by decide), clampNat_eq (show 5 ≤ 240 by decide),
      clampNat_eq (show 10 ≤ 720 by decide), clampNat_eq (show 5 ≤ 60 by decide), clampNat_eq (show 10 ≤ 300 by decide),
      clampNat_eq (show 4 ≤ 64 by decide), clampNat_eq (show 10 ≤ 1000 by decide), Nat.zero_max]
    rfl
  have hexec : exec (.tableWriteConfig f) s = .next (answered f (writeConfig f (asked s)).2 (writeConfig f (asked s)).1) :=
    windowWrite_answered (may := mayWriteConfig f) hasked hof hform hmay (Nat.zero_le _) (by omega) _
  rw [hexec]
  refine ⟨fun hbad => ?_, fun _ hfull => ?_, fun hnamed hroom => ?_⟩
  · rw [writeConfig_refused (s := asked s) (.inl hbad)]
  · rw [writeConfig_refused (s := asked s) (.inr (by rw [show clampConfig (carriedConfig f) = record from hrecord]; exact hfull))]
  · rw [writeConfig_accepted (s := asked s) hnamed (by rw [show clampConfig (carriedConfig f) = record from hrecord]; exact hroom),
      show clampConfig (carriedConfig f) = record from hrecord]
    obtain ⟨order, hperm, hwritten⟩ := configWritten_spec (asked s).mgu
      (onMgu (fun b => { b with config := record, configValid := true }) (asked s))
    refine ⟨order, s.sched.tail, configTest (!s.mgu.configValid)
      (!s.mgu.configValid || decide (s.mgu.config.beltLoad ≠ record.beltLoad)), hperm, fun t => ⟨rfl, rfl, rfl⟩,
      fun t => congrArg decideFeed (resetBelt_config s.mgu record t), fun t => retimeSilence_config s.mgu.configValid t, ?_⟩
    have hdone : doneClamped (decide (record ≠ c)) = if record = c then done [] else ⟨.doneClamped, .bytes []⟩ := by
      by_cases heq : record = c
      · rw [if_pos heq, decide_eq_false (not_not.mpr heq)]; rfl
      · rw [if_neg heq, decide_eq_true heq]; rfl
    rw [hwritten, ← hdone]
    rfl

end Sys2Proof.Machine
end

section
/-! The requests for recipes, the time, events and START, and those for lots (R22, R23, R28, R60 to R62, R84, R184 to R188). -/

namespace Sys2Proof.Machine

/-! ### Recipes (R60 to R62) -/

theorem doneClamped_eq {p : Prop} [Decidable p] : doneClamped (decide p) = ⟨if p then .doneClamped else .done, .bytes []⟩ := by
  by_cases h : p <;> simp [doneClamped, h]

theorem beginRecipe_refused {f : Frame} {s : State} (h : arg f 0 1 = 0 ∨ 8 < arg f 0 1 ∨ arg f 1 1 = 0 ∨ 6 < arg f 1 1) :
    beginRecipe f s = (s, refusal .outOfRange) := if_pos h

theorem beginRecipe_opened {f : Frame} {s : State} (h : ¬ (arg f 0 1 = 0 ∨ 8 < arg f 0 1 ∨ arg f 1 1 = 0 ∨ 6 < arg f 1 1)) :
    beginRecipe f s = (setStaging (some ⟨arg f 0 1, arg f 1 1, min (arg f 2 2) 1440, []⟩) s,
      ⟨if arg f 2 2 ≤ 1440 then .done else .doneClamped, .bytes []⟩) := by
  rw [beginRecipe, if_neg h, doneClamped_eq]
  by_cases hrest : 1440 < arg f 2 2
  · rw [if_pos hrest, if_neg (by omega)]
  · rw [if_neg hrest, if_pos (by omega)]

theorem stageRecipe_closed {f : Frame} {s : State} (h : s.rct.staging = none) : stageRecipe f s = (s, refusal .sequence) := by
  rw [stageRecipe, h]

theorem stageRecipe_outOfTurn {f : Frame} {s : State} {g : Staging} (h : s.rct.staging = some g)
    (hturn : arg f 0 1 ≠ g.stages.length + 1 ∨ g.declared < arg f 0 1) :
    stageRecipe f s = (setStaging none s, refusal .sequence) := by
  rw [stageRecipe, h]
  exact if_pos hturn

theorem stageRecipe_unnamed {f : Frame} {s : State} {g : Staging} (h : s.rct.staging = some g)
    (hturn : ¬ (arg f 0 1 ≠ g.stages.length + 1 ∨ g.declared < arg f 0 1)) (hkind : EndKind.ofCode (arg f 6 1) = none) :
    stageRecipe f s = (s, refusal .outOfRange) := by
  simp only [stageRecipe, h, if_neg hturn, hkind]

theorem stageRecipe_taken {f : Frame} {s : State} {g : Staging} {kind : EndKind} (h : s.rct.staging = some g)
    (hturn : ¬ (arg f 0 1 ≠ g.stages.length + 1 ∨ g.declared < arg f 0 1)) (hkind : EndKind.ofCode (arg f 6 1) = some kind) :
    stageRecipe f s = (setStaging (some { g with stages := g.stages ++ [clampStage (carriedStage f kind)] }) s,
      ⟨if clampStage (carriedStage f kind) = carriedStage f kind then .done else .doneClamped, .bytes []⟩) := by
  simp only [stageRecipe, h, if_neg hturn, hkind, doneClamped_eq, ne_eq, ite_not]

theorem endKind_ofCode_none : ∀ {n : Nat}, 2 < n → EndKind.ofCode n = none
  | 0, h | 1, h | 2, h => absurd h (by decide)
  | n + 3, _ => rfl

/-- A stage's fields clamped to their ranges, a max below the min taken as the min (R61). -/
theorem clampStage_eq (st : Stage) : clampStage st =
    ⟨max 300 (min 850 st.setpoint), min 1000 st.fan, min 100 st.ramp, st.endKind, min 1000 st.threshold,
      max 1 (min 1440 st.min), max (max 1 (min 1440 st.min)) (max 1 (min 1440 st.max))⟩ := by
  simp only [clampStage, clampNat_eq (show 1 ≤ 1440 by decide), clampNat_eq (show 300 ≤ 850 by decide), Nat.min_comm 1000,
    Nat.min_comm 100]

theorem endRecipe_closed {f : Frame} {s : State} (h : s.rct.staging = none) : endRecipe f s = (s, refusal .sequence) := by
  rw [endRecipe, h]

theorem endRecipe_incomplete {f : Frame} {s : State} {g : Staging} (h : s.rct.staging = some g)
    (hbad : arg f 0 1 ≠ g.declared ∨ g.stages.length ≠ g.declared) :
    endRecipe f s = (setStaging none s, refusal .sequence) := by
  rw [endRecipe, h]
  exact if_pos hbad

theorem endRecipe_complete {f : Frame} {s : State} {g : Staging} (h : s.rct.staging = some g)
    (hgood : ¬ (arg f 0 1 ≠ g.declared ∨ g.stages.length ≠ g.declared)) :
    endRecipe f s = (onRct (fun r => ⟨r.recipes.put (g.recipe - 1) ⟨g.rest, g.stages⟩, none⟩) s, done []) := by
  rw [endRecipe, h]
  exact if_neg hgood

/-! ### Events (R185, R186) -/

theorem beBytes_one (n : Nat) : beBytes 1 n = [BitVec.ofNat 8 n] := by
  simp [beBytes]

/-- The counts of a set of kinds, one byte each. -/
theorem countBytes_eq (s : State) (xs : List (Fin 24)) : xs.flatMap (fun i => beBytes 1 (s.mgu.events.get i).count) =
    xs.map (fun i => BitVec.ofNat 8 (s.mgu.events.get i).count) := by
  induction xs with
  | nil => rfl
  | cons x xs ih => rw [List.flatMap_cons, ih, List.map_cons, beBytes_one]; rfl

/-- Settles O40: each request's owner, case by case. -/
theorem recipeTimeAndEventRequests : Obligations.RecipeTimeAndEventRequests := by
  refine ⟨fun f s hasks => ?recipes, fun f s hasks => ?clock⟩
  case recipes =>
    intro staged
    refine ⟨fun hc => ?begin, fun hc => ?stage, fun hc => ?finish⟩
    case begin =>
      refine ⟨fun hbad => setup_exec hasks hc _ (beginRecipe_refused hbad), fun h1 h2 h3 h4 => ?_⟩
      exact setup_exec hasks hc _ (beginRecipe_opened (by omega))
    case stage =>
      refine ⟨fun hnone => setup_exec hasks hc _ (stageRecipe_closed hnone), fun g hg => ⟨fun hbad =>
        setup_exec hasks hc _ (stageRecipe_outOfTurn hg hbad), fun hnext hroom => ?_⟩⟩
      have hturn : ¬ (arg f 0 1 ≠ g.stages.length + 1 ∨ g.declared < arg f 0 1) := by omega
      refine ⟨fun hkind => setup_exec hasks hc _ (stageRecipe_unnamed hg hturn (endKind_ofCode_none hkind)), fun kind hkind => ?_⟩
      have howner := stageRecipe_taken (s := asked s) hg hturn hkind
      rw [clampStage_eq] at howner
      exact setup_exec hasks hc _ howner
    case finish =>
      refine ⟨fun hnone => setup_exec hasks hc _ (endRecipe_closed hnone), fun g hg => ⟨fun hbad =>
        setup_exec hasks hc _ (endRecipe_incomplete hg hbad), fun h1 h2 => ?_⟩⟩
      exact setup_exec hasks hc _ (endRecipe_complete hg (by omega))
  case clock =>
    refine ⟨fun hc => setup_exec hasks hc (setTime f) rfl, fun hc => ?enable, fun hc => ?clear⟩
    case enable =>
      refine ⟨_, setup_exec hasks hc (enableEvents f) rfl, rfl, rfl, fun i => ?_⟩
      exact Tab.get_mapIdx _ s.mgu.events i
    case clear =>
      refine ⟨_, setup_exec hasks hc (clearEvents f) (congrArg (Prod.mk _) (congrArg done (countBytes_eq (asked s) _))), rfl, rfl,
        fun i => ?_⟩
      exact Tab.get_mapIdx _ s.mgu.events i

/-! ### START (R84, R188) -/

/-- A kiln meets the orphan check: enabled, EMPTY, its scale LIVE and above the empty threshold (R84). -/
theorem isOrphan_iff {s : State} {k : Fin 4} : isOrphan s k = true ↔ ((setupOf s k).enabled = true ∧
    (s.kilns.get k).state = .empty ∧ isLive s (setupOf s k).scale = true ∧
    (s.mgu.config.emptyThreshold : Int) < heldValue s (setupOf s k).scale) := by
  rw [isOrphan, Bool.and_eq_true, Bool.and_eq_true, Bool.and_eq_true, decide_eq_true_eq, decide_eq_true_eq, and_assoc, and_assoc]

/-- The bits of a list, one by one. -/
theorem testBit_bitsNat (bs : List Bool) : ∀ i : Nat, (bitsNat bs).testBit i = bs.getD i false := by
  induction bs with
  | nil => exact fun i => by simp [bitsNat]
  | cons b bs ih =>
    have hcons : bitsNat (b :: bs) = Nat.bit b (bitsNat bs) := by
      cases b <;> simp [bitsNat, Nat.bit_val, Nat.add_comm]
    rintro (_ | i)
    · rw [hcons, Nat.testBit_bit_zero]; rfl
    · rw [hcons, Nat.testBit_bit_succ, ih]; rfl

theorem orphanBits_testBit (s : State) (k : Fin 4) : (orphanBits s).testBit k = true ↔ isOrphan s k = true := by
  rw [orphanBits, testBit_bitsNat]
  simp [List.getD_eq_getElem?_getD]

theorem startDevice_refused {s : State} (h : started s = true ∨ s.mgu.configValid = false) :
    startDevice s = (s, refusal .refusedState) := by
  refine if_pos ?_
  rw [Bool.or_eq_true, Bool.not_eq_true']
  exact h

/-- START in transparent mode with a valid CONFIG record: the mode, the orphan checks in some order, and the first tests. -/
theorem startDevice_started {s : State} (hmode : started s = false) (hvalid : s.mgu.configValid = true) :
    ∃ order : List (Fin 4), order.Perm (List.finRange 4) ∧
      startDevice s = (decidePress (selectKiln (decideFeed (hookingTest (order.foldl orphanCheck
        { onMgu (fun b => { b with mode := .started }) s with sched := s.sched.tail })))),
        done (beBytes 1 (orphanBits (onMgu (fun b => { b with mode := .started }) s)))) := by
  obtain ⟨order, hperm, horder⟩ := inChosenOrder_spec (List.finRange 4) (onMgu (fun b => { b with mode := .started }) s)
  refine ⟨order, hperm, ?_⟩
  have hgo : (started s || !s.mgu.configValid) = false := by rw [hmode, hvalid]; rfl
  simp only [startDevice, hgo, horder]
  rfl

/-- Settles O41: `startDevice` in its two cases, the reply's bits, and the orphan check. -/
theorem startMakesTheOrphanChecksAndFirstTests : Obligations.StartMakesTheOrphanChecksAndFirstTests := by
  refine ⟨fun f s hasks hc => ⟨fun hbad => setup_exec hasks hc _ (startDevice_refused hbad), fun hmode hvalid => ?start⟩,
    fun k s => ?check⟩
  case start =>
    obtain ⟨order, hperm, howner⟩ := startDevice_started (s := asked s) hmode hvalid
    rw [beBytes_one] at howner
    exact ⟨order, _, _, hperm, setup_exec hasks hc _ howner, fun k => (orphanBits_testBit _ k).trans isOrphan_iff⟩
  case check =>
    exact ⟨fun h => if_pos (isOrphan_iff.mpr h), fun h => if_neg (fun hb => h (isOrphan_iff.mp hb))⟩

/-! ### Lots (R22, R23, R28) -/

theorem Tab.lowest?_eq_none {α : Type} {n : Nat} {t : Tab α n} {p : α → Bool} (h : ∀ i, p (t.get i) = false) :
    t.lowest? p = none := by
  unfold Tab.lowest?
  rw [List.find?_eq_none]
  exact fun i _ => by rw [h i]; decide

/-- The live record of a slot has a lot number. -/
def numbersLot (s : State) (n : Nat) (i : Fin 32) : Prop := ∃ l, lotAt s i = some l ∧ l.number = n

theorem slotOfLot_none {s : State} {n : Nat} (h : ¬ ∃ i, numbersLot s n i) : slotOfLot s n = none := by
  refine Tab.lowest?_eq_none (fun i => ?_)
  cases hl : s.itk.lots.get i with
  | none => rfl
  | some l => exact decide_eq_false (fun he => h ⟨i, l, hl, he⟩)

theorem slotOfLot_some {s : State} {n : Nat} {i : Fin 32} (hi : numbersLot s n i) (hlow : ∀ j, j < i → ¬ numbersLot s n j) :
    slotOfLot s n = some i := by
  obtain ⟨l, hl, hn⟩ := hi
  refine Tab.lowest?_eq_some (by rw [show s.itk.lots.get i = some l from hl]; exact decide_eq_true hn) (fun j hj => ?_)
  cases hr : s.itk.lots.get j with
  | none => rfl
  | some r => exact decide_eq_false (fun he => hlow j hj ⟨r, hr, he⟩)

theorem slotOfLot_isSome {s : State} {n : Nat} (h : ∃ i, numbersLot s n i) : (slotOfLot s n).isSome = true := by
  obtain ⟨i, l, hl, hn⟩ := h
  unfold slotOfLot Tab.lowest?
  rw [List.find?_isSome]
  exact ⟨i, List.mem_finRange i, by rw [show s.itk.lots.get i = some l from hl]; exact decide_eq_true hn⟩

theorem namedLot_none {f : Frame} {s : State} (h : ¬ ∃ i, numbersLot s (arg f 0 2) i) : namedLot f s = none := by
  rw [namedLot, slotOfLot_none h]

theorem namedLot_some {f : Frame} {s : State} {i : Fin 32} {l : Lot} (hl : lotAt s i = some l) (hn : l.number = arg f 0 2)
    (hlow : ∀ j, j < i → ¬ numbersLot s (arg f 0 2) j) : namedLot f s = some (i, l) := by
  simp only [namedLot, slotOfLot_some ⟨l, hl, hn⟩ hlow, hl]
  rfl

theorem freeSlot_none {s : State} (h : ∀ i, lotAt s i ≠ none) : freeSlot s = none :=
  Tab.lowest?_eq_none (fun i => Option.isNone_eq_false_iff.mpr (Option.isSome_iff_ne_none.mpr (h i)))

theorem freeSlot_some {s : State} {i : Fin 32} (hi : lotAt s i = none) (hlow : ∀ j, j < i → lotAt s j ≠ none) :
    freeSlot s = some i :=
  Tab.lowest?_eq_some (Option.isNone_iff_eq_none.mpr hi)
    (fun j hj => Option.isNone_eq_false_iff.mpr (Option.isSome_iff_ne_none.mpr (hlow j hj)))

/-- The arguments of a LOT-OPEN that R22 answers OUT-OF-RANGE. -/
abbrev lotArgumentsBad (f : Frame) : Prop := arg f 0 2 = 0 ∨ arg f 2 2 = 0 ∨ 4095 < arg f 2 2 ∨ 999 < arg f 7 2

theorem openLot_outOfRange {f : Frame} {s : State} (h : lotArgumentsBad f) : openLot f s = (s, refusal .outOfRange) := if_pos h

theorem openLot_duplicate {f : Frame} {s : State} (h : ¬ lotArgumentsBad f) (hheld : ∃ i, numbersLot s (arg f 0 2) i) :
    openLot f s = (s, refusal .duplicate) := by
  rw [openLot, if_neg h, if_pos (slotOfLot_isSome hheld)]

theorem openLot_noRoom {f : Frame} {s : State} (h : ¬ lotArgumentsBad f) (hheld : ¬ ∃ i, numbersLot s (arg f 0 2) i)
    (hfull : (∀ i, lotAt s i ≠ none) ∨ 8 ≤ s.itk.queue.length) : openLot f s = (s, refusal .noRoom) := by
  have hno : (slotOfLot s (arg f 0 2)).isSome ≠ true := by rw [slotOfLot_none hheld]; decide
  rw [openLot, if_neg h, if_neg hno]
  split
  · rfl
  · rename_i slot hslot
    rcases hfull with hnone | hqueue
    · rw [freeSlot_none hnone] at hslot; cases hslot
    · rw [if_pos hqueue]

theorem openLot_opened {f : Frame} {s : State} {slot : Fin 32} (h : ¬ lotArgumentsBad f)
    (hheld : ¬ ∃ i, numbersLot s (arg f 0 2) i) (hqueue : s.itk.queue.length < 8) (hfree : lotAt s slot = none)
    (hlow : ∀ j, j < slot → lotAt s j ≠ none) :
    openLot f s = (decideFeed (hookingTest (queueLot slot (setLot slot (some (openedLot f s)) s))),
      ⟨if moistureOutside f then .doneClamped else .done, .bytes (beBytes 1 slot.val)⟩) := by
  have hno : (slotOfLot s (arg f 0 2)).isSome ≠ true := by rw [slotOfLot_none hheld]; decide
  simp only [openLot, if_neg h, if_neg hno,
    freeSlot_some hfree hlow, if_neg (not_le.mpr hqueue)]

/-- Settles O42: each lot request's owner by what it finds of the slot, the record and its state. -/
theorem lotRequests : Obligations.LotRequests := by
  intro f s hworks n held
  refine ⟨fun hc => ?open_, fun hc => ?cancel, fun hc => ?end_⟩
  case open_ =>
    refine ⟨fun hbad => job_exec hworks hc _ (openLot_outOfRange hbad),
      fun hgood hheld => job_exec hworks hc _ (openLot_duplicate hgood hheld),
      fun hgood hheld hfull => job_exec hworks hc _ (openLot_noRoom hgood hheld hfull),
      fun slot hgood hheld hqueue hfree hlow => ?_⟩
    intro w clamped l
    have howner := openLot_opened (s := asked s) hgood hheld hqueue hfree hlow
    have hlot : openedLot f (asked s) = l := by
      rw [openedLot, clampNat_eq (by decide)]
      rfl
    have hstatus : (if moistureOutside f then Status.doneClamped else .done) = if clamped then .doneClamped else .done := by
      simp only [moistureOutside, decide_eq_true_eq]
      rfl
    rw [hlot, hstatus, beBytes_one] at howner
    exact job_exec hworks hc _ howner
  case cancel =>
    refine ⟨fun hnone => job_exec hworks hc _ (by rw [cancelLot, namedLot_none (s := asked s) hnone]), fun slot l hl hn hlow => ?_⟩
    have hnamed := namedLot_some (f := f) (s := asked s) hl hn hlow
    refine ⟨fun hstate => job_exec hworks hc _ (by simp only [cancelLot, hnamed, if_neg hstate]), fun hstate => ?_⟩
    have howner : cancelLot f (asked s) = (setLot slot none (unqueueLot slot (asked s)), done []) := by
      simp only [cancelLot, hnamed, if_pos hstate]
    exact ⟨_, job_exec hworks hc _ howner, rfl, lotAt_setLot_self slot none _, fun j hj => Tab.get_set_ne _ _ (Ne.symm hj), rfl, rfl⟩
  case end_ =>
    refine ⟨fun hnone => job_exec hworks hc _ (by rw [endLot, namedLot_none (s := asked s) hnone]), fun slot l hl hn hlow => ?_⟩
    have hnamed := namedLot_some (f := f) (s := asked s) hl hn hlow
    exact ⟨fun hstate => job_exec hworks hc _ (by simp only [endLot, hnamed, if_neg hstate]),
      fun hstate => job_exec hworks hc _ (by simp only [endLot, hnamed, if_pos hstate])⟩

end Sys2Proof.Machine
end

section
/-! The kiln requests (R55, R63, R66, R75, R79, R81 to R83, R85) and what the commands of a kiln leave alone (R74). -/

namespace Sys2Proof.Machine

/-! ### The commands of a kiln (R74) -/

/-- A kiln's record but for what is noted of its commands. -/
def SameButCommands (a b : Kiln) : Prop := b =
  { a with burnerBound := b.burnerBound, fanBound := b.fanBound, lastBurner := b.lastBurner, lastFan := b.lastFan }

theorem SameButCommands.trans {a b c : Kiln} (h : SameButCommands a b) (k : SameButCommands b c) : SameButCommands a c := by
  unfold SameButCommands at *
  rw [k, h]

/-- Commands of a kiln have been posted: only the ring link and what is noted of the kiln's commands have changed. -/
structure Commanded (k : Fin 4) (s t : State) : Prop where
  link   : LinkOnly { s with kilns := t.kilns } t
  kiln   : SameButCommands (s.kilns.get k) (t.kilns.get k)
  others : ∀ j, j ≠ k → t.kilns.get j = s.kilns.get j

theorem LinkOnly.withKilns {s t : State} (h : LinkOnly s t) (ks : Tab Kiln 4) :
    LinkOnly { s with kilns := ks } { t with kilns := ks } := by
  obtain ⟨⟨hitk, hkfr, hkilns, huar, hcfl, hpru⟩, htables, htickets, hsurroundings⟩ := h
  exact ⟨⟨hitk, hkfr, rfl, huar, hcfl, hpru⟩, htables, htickets, hsurroundings⟩

theorem Commanded.trans {k : Fin 4} {s t u : State} (h : Commanded k s t) (h' : Commanded k t u) : Commanded k s u where
  link := (h.link.withKilns u.kilns).trans h'.link
  kiln := h.kiln.trans h'.kiln
  others := fun j hj => (h'.others j hj).trans (h.others j hj)

/-- What is noted of a kiln's commands, and a posting to the ring. -/
theorem commanded_modifyKiln {k : Fin 4} {s t : State} (g : Kiln → Kiln) (h : LinkOnly (modifyKiln k g s) t)
    (hg : ∀ kl, SameButCommands kl (g kl)) : Commanded k s t := by
  have hkilns : t.kilns = (modifyKiln k g s).kilns := h.1.2.2.1
  refine ⟨?_, ?_, fun j hj => ?_⟩
  · rw [hkilns]; exact h
  · rw [hkilns, modifyKiln_self]; exact hg _
  · rw [hkilns, modifyKiln_other g s hj]

theorem linkOnly_postTo (s : State) (i v : Nat) : LinkOnly s (postTo s i v) := linkOnly_postCommand _ s

theorem commanded_postBurner (k : Fin 4) (v : Nat) (s : State) : Commanded k s (postBurner k v s) := by
  unfold postBurner
  split
  · exact commanded_modifyKiln _ (linkOnly_postTo _ _ _) (fun kl => rfl)
  · exact commanded_modifyKiln _ (.refl _) (fun kl => rfl)

theorem commanded_postFan (k : Fin 4) (v : Nat) (s : State) : Commanded k s (postFan k v s) := by
  unfold postFan
  split
  · exact commanded_modifyKiln _ (linkOnly_postTo _ _ _) (fun kl => rfl)
  · exact commanded_modifyKiln _ (.refl _) (fun kl => rfl)

theorem commanded_postDrying (k : Fin 4) (i : Nat) (s : State) : Commanded k s (postDrying k i s) :=
  (commanded_postBurner k _ s).trans (commanded_postFan k _ _)

theorem commanded_postHeld (k : Fin 4) (i : Nat) (s : State) : Commanded k s (postHeld k i s) :=
  (commanded_postBurner k _ s).trans (commanded_postFan k _ _)

theorem commanded_postEndpoint (k : Fin 4) (s : State) : Commanded k s (postEndpoint k s) :=
  (commanded_postBurner k _ s).trans (commanded_postFan k _ _)

/-! ### Kilns moved by a request -/

/-- Nothing but kilns, the feed permit and the ring link has changed. -/
structure KilnsOnly (s t : State) : Prop where
  kfr          : t.kfr = s.kfr
  uar          : t.uar = s.uar
  cfl          : t.cfl = s.cfl
  pru          : t.pru = s.pru
  itk          : t.itk = { s.itk with permit := t.itk.permit, cause := t.itk.cause }
  tables       : SameTables s t
  tickets      : SameTickets s t
  surroundings : SameSurroundings s t

theorem KilnsOnly.trans {s t u : State} (h : KilnsOnly s t) (k : KilnsOnly t u) : KilnsOnly s u := by
  obtain ⟨hchannels, hactuators, hrct, hmgu⟩ := h.tables
  obtain ⟨kchannels, kactuators, krct, kmgu⟩ := k.tables
  obtain ⟨h1, h2, h3, h4, h5⟩ := h.tickets
  obtain ⟨k1, k2, k3, k4, k5⟩ := k.tickets
  obtain ⟨hpending, hsched, hclock, haddress⟩ := h.surroundings
  obtain ⟨kpending, ksched, kclock, kaddress⟩ := k.surroundings
  exact {
    kfr := k.kfr.trans h.kfr
    uar := k.uar.trans h.uar
    cfl := k.cfl.trans h.cfl
    pru := k.pru.trans h.pru
    itk := by rw [k.itk, h.itk]
    tables := ⟨kchannels.trans hchannels, kactuators.trans hactuators, krct.trans hrct, by rw [kmgu, hmgu]⟩
    tickets := ⟨k1.trans h1, k2.trans h2, k3.trans h3, k4.trans h4, k5.trans h5⟩
    surroundings := ⟨kpending.trans hpending, ksched.trans hsched, kclock.trans hclock, kaddress.trans haddress⟩ }

theorem KilnsOnly.of_link {s t : State} {ks : Tab Kiln 4} (h : LinkOnly { s with kilns := ks } t) : KilnsOnly s t := by
  obtain ⟨⟨hitk, hkfr, -, huar, hcfl, hpru⟩, htables, htickets, hsurroundings⟩ := h
  exact ⟨hkfr, huar, hcfl, hpru, by rw [hitk], htables, htickets, hsurroundings⟩

theorem kilnsOnly_modifyKiln (k : Fin 4) (g : Kiln → Kiln) (s : State) : KilnsOnly s (modifyKiln k g s) :=
  .of_link (.refl _)

theorem Commanded.kilnsOnly {k : Fin 4} {s t : State} (h : Commanded k s t) : KilnsOnly s t := .of_link h.link

theorem kilnsOnly_decideFeed (s : State) : KilnsOnly s (decideFeed s) := by
  obtain ⟨⟨hitk, hkfr, -, huar, hcfl, hpru⟩, htables, htickets, hsurroundings⟩ := decideFeed_link s
  exact ⟨hkfr, huar, hcfl, hpru, decideFeed_itk s, htables, htickets, hsurroundings⟩

theorem kilnsOnly_moveKiln (k : Fin 4) (st : KilnState) (s : State) : KilnsOnly s (moveKiln k st s) :=
  (kilnsOnly_modifyKiln k _ s).trans (kilnsOnly_decideFeed _)

theorem kilnsOnly_postEvent (kind : EventKind) (ctx : Context) (s : State) : KilnsOnly s (postEvent kind ctx s) :=
  .of_link (ks := s.kilns) (linkOnly_postEvent kind ctx s)

theorem kilns_postEvent (kind : EventKind) (ctx : Context) (s : State) : (postEvent kind ctx s).kilns = s.kilns :=
  (linkOnly_postEvent kind ctx s).1.2.2.1

/-- A DRYING kiln enters HELD with a cause (R77 to R79). -/
theorem holdKiln_drying {k : Fin 4} {s : State} {i : Nat} (h : (s.kilns.get k).state = .drying i) (cause : HoldCauses) :
    KilnsOnly s (holdKiln k cause s) ∧
    SameButCommands { s.kilns.get k with state := .held i, causes := cause, debounce := 0 } ((holdKiln k cause s).kilns.get k) ∧
    ∀ j, j ≠ k → (holdKiln k cause s).kilns.get j = s.kilns.get j := by
  let u := modifyKiln k (fun kl => { kl with causes := cause, debounce := 0 }) (moveKiln k (.held i) s)
  have heq : holdKiln k cause s = postEvent .kilnHeld (kilnContext k) (postHeld k i u) := by
    simp only [holdKiln, h]
    rfl
  have hcommands := commanded_postHeld k i u
  rw [heq, kilns_postEvent]
  refine ⟨?_, ?_, fun j hj => ?_⟩
  · exact ((kilnsOnly_moveKiln k _ s).trans (kilnsOnly_modifyKiln k _ _)).trans
      (hcommands.kilnsOnly.trans (kilnsOnly_postEvent _ _ _))
  · have hkiln : u.kilns.get k = { s.kilns.get k with state := .held i, causes := cause, debounce := 0 } := by
      rw [modifyKiln_self, moveKiln_self]
    rw [← hkiln]
    exact hcommands.kiln
  · rw [hcommands.others j hj, modifyKiln_other _ _ hj, moveKiln_other _ _ hj]

/-- A HELD kiln adds a cause. -/
theorem holdKiln_held {k : Fin 4} {s : State} {i : Nat} (h : (s.kilns.get k).state = .held i) (cause : HoldCauses) :
    holdKiln k cause s = modifyKiln k (fun kl => { kl with causes := joinCauses kl.causes cause }) s := by
  simp only [holdKiln, h]

/-! ### The kiln that a request names -/

theorem forKiln_none {f : Frame} (h : 3 < arg f 0 1) (owner : Fin 4 → State → State × Answer) (s : State) :
    forKiln f owner s = (s, refusal .outOfRange) := by
  rw [forKiln, kilnOf, dif_neg (by omega)]

theorem forKiln_some {f : Frame} {k : Fin 4} (h : arg f 0 1 = k.val) (owner : Fin 4 → State → State × Answer) (s : State) :
    forKiln f owner s = owner k s := by
  rw [forKiln, h, kilnOf, dif_pos k.isLt]

theorem running_iff {kl : Kiln} : running kl = true ↔ (∃ i, kl.state = .drying i) ∨ ∃ i, kl.state = .held i := by
  unfold running
  cases kl.state <;> simp

theorem operator_of_class {s : State} {f : Frame} (h : Asked s f)
    (hc : classOf s f.src.toNat = .operator ∨ classOf s f.src.toNat = .weighmaster) : OperatorAsks s f :=
  ⟨h, by rcases hc with hc | hc <;> rw [hc] <;> rfl⟩

/-- Settles O43: the checks of the class and the mode, then `holdKiln` by the kiln's state. -/
theorem kilnHoldByKilnState : Obligations.KilnHoldByKilnState := by
  intro f s hasked hc c
  have hexec : exec (.kilnHold f) s =
      .next (takeRequest (asks f 15) f (jobRequest (argsLength f 1) (forKiln f holdRequest)) s) := rfl
  refine ⟨fun hclass => ?viewer, fun hclass hmode => ?transparent, fun hclass hmode => ?works⟩
  case viewer =>
    have hno : isOperator (classOf (asked s) f.src.toNat) = false := by
      rw [show classOf (asked s) f.src.toNat = .viewer from hclass]; rfl
    rw [hexec, hc.1, takeRequest_served hasked (length_of_asks hc.1), answer_notPermitted hc.2 hno]
  case transparent =>
    rw [hexec, hc.1, takeRequest_served hasked (length_of_asks hc.1),
      answer_notStarted (s := asked s) hc.2 (operator_of_class hasked hclass).2 rfl hmode]
  case works =>
    have hworks : OperatorWorks s f := ⟨operator_of_class hasked hclass, hmode⟩
    refine ⟨fun hout => job_exec hworks hc _ (forKiln_none hout _ _), fun k hk => ⟨fun i hi => ?_, fun i hi => ?_,
      fun hdrying hheld => ?_⟩⟩
    · have howner : forKiln f holdRequest (asked s) = (holdKiln k operatorCause (asked s), done []) := by
        rw [forKiln_some hk]
        exact if_pos (running_iff.mpr (.inl ⟨i, hi⟩))
      obtain ⟨honly, hkiln, hothers⟩ := holdKiln_drying (s := asked s) hi operatorCause
      obtain ⟨hkfr, huar, hcfl, hpru, hitk, htables, htickets, hsurroundings⟩ := honly
      refine ⟨_, job_exec hworks hc _ howner, by rw [hkiln], by rw [hkiln]; rfl, hothers, hkfr, huar, hcfl, hpru,
        by rw [hitk]; rfl, by rw [hitk]; rfl, htables, htickets, hsurroundings⟩
    · refine job_exec hworks hc _ ?_
      have hrunning : running ((asked s).kilns.get k) = true := running_iff.mpr (.inr ⟨i, hi⟩)
      rw [forKiln_some hk, holdRequest, if_pos hrunning, holdKiln_held (s := asked s) hi]
      simp only [joinCauses, operatorCause, Bool.or_false, Bool.or_true]
    · refine job_exec hworks hc _ ?_
      rw [forKiln_some hk]
      refine if_neg (fun hr => ?_)
      rcases running_iff.mp hr with ⟨i, hi⟩ | ⟨i, hi⟩
      · exact hdrying i hi
      · exact hheld i hi

/-! ### Start, resume, close, clear and recipe (R55, R63, R66, R81, R85) -/

/-- The assigned recipe of a kiln names a recipe that is not empty (R66). -/
theorem hasRecipe_iff {s : State} {k : Fin 4} : hasRecipe s k = true ↔
    (s.kfr.setups.get k).recipe ≠ 0 ∧ (s.rct.recipes.getD ((s.kfr.setups.get k).recipe - 1) ⟨0, []⟩).stages ≠ [] := by
  unfold hasRecipe recipeOf setupOf
  rw [Bool.not_eq_true', List.isEmpty_eq_false_iff]
  by_cases h : (s.kfr.setups.get k).recipe = 0
  · rw [if_pos h]
    exact ⟨fun hn => absurd rfl hn, fun hn => absurd h hn.1⟩
  · rw [if_neg h]
    exact ⟨fun hn => ⟨h, hn⟩, fun hn => hn.2⟩

theorem plenumAllows_iff {s : State} {k : Fin 4} : plenumAllows s k = true ↔ isLive s (s.kfr.setups.get k).plenum = true ∧
    heldValue s (s.kfr.setups.get k).plenum ≤ ((s.kfr.setups.get k).ceiling : Int) := by
  rw [plenumAllows, Bool.and_eq_true, decide_eq_true_eq]
  rfl

/-- A resumed kiln, before the commands of its stage: DRYING again with no cause (R81). -/
theorem resumed_spec (k : Fin 4) (i : Nat) (s : State) :
    let u := moveKiln k (.drying i) (modifyKiln k (fun kl => { kl with causes := ⟨false, false, false⟩ }) s)
    resume k i s = postDrying k i u ∧
    u.kilns.get k = { s.kilns.get k with state := .drying i, causes := ⟨false, false, false⟩ } ∧
    (∀ j, j ≠ k → u.kilns.get j = s.kilns.get j) ∧ u.kfr = s.kfr ∧ u.itk.lots = s.itk.lots := by
  intro u
  have honly : KilnsOnly s u := (kilnsOnly_modifyKiln k _ s).trans (kilnsOnly_moveKiln k _ _)
  refine ⟨rfl, ?_, fun j hj => ?_, honly.kfr, by rw [honly.itk]⟩
  · rw [moveKiln_self, modifyKiln_self]
  · rw [moveKiln_other _ _ hj, modifyKiln_other _ _ hj]

theorem resumeRequest_refused {s : State} {k : Fin 4} (h : (∀ i, (s.kilns.get k).state ≠ .held i) ∨ plenumAllows s k = false) :
    resumeRequest k s = (s, refusal .refusedState) := by
  unfold resumeRequest
  split
  · rename_i i hi
    rcases h with h | h
    · exact absurd hi (h i)
    · exact if_neg (by rw [h]; decide)
  · rfl

theorem resumeRequest_held {s : State} {k : Fin 4} {i : Nat} (hi : (s.kilns.get k).state = .held i)
    (h : plenumAllows s k = true) : resumeRequest k s = (resume k i s, done []) := by
  simp only [resumeRequest, hi, if_pos h]

/-- Settles O44: the owners by the kiln's index and state, each with what its act leaves. -/
theorem kilnRequestsByKilnState : Obligations.KilnRequestsByKilnState := by
  intro f s
  refine ⟨fun hworks hout => ⟨fun hc => job_exec hworks hc _ (forKiln_none hout _ _),
    fun hc => job_exec hworks hc _ (forKiln_none hout _ _), fun hc => job_exec hworks hc _ (forKiln_none hout _ _),
    fun hc => job_exec hworks hc _ (forKiln_none hout _ _)⟩, fun hworks hc => ⟨fun hout =>
      weighmaster_exec hworks hc _ (forKiln_none hout _ _), fun k hk => ?clear⟩, fun k hworks hk => ⟨fun hc => ?start,
    fun hc => ?resume, fun hc => ?close, fun hc => ?recipe⟩⟩
  case clear =>
    refine ⟨fun hstate => weighmaster_exec hworks hc _ ((forKiln_some hk _ _).trans (if_neg hstate)), fun hstate => ?_⟩
    obtain ⟨hkiln, hothers, hkfr, -, -⟩ := emptyKiln_spec k (asked s)
    refine ⟨_, weighmaster_exec hworks hc _ ((forKiln_some hk _ _).trans (if_pos hstate)), ?_, ?_, ?_, ?_, fun j hj => ⟨?_, ?_⟩⟩
    · rw [hkiln]; rfl
    · rw [hkfr]; exact Tab.get_set_self _ _ _
    · rw [hkiln]; rfl
    · rw [hkiln]; rfl
    · exact hothers j hj
    · rw [hkfr]; exact Tab.get_set_ne _ _ (Ne.symm hj)
  case start =>
    refine ⟨fun hnot => job_exec hworks hc _ ((forKiln_some hk _ _).trans (if_neg (fun h => hnot ?_))), fun hready =>
      job_exec hworks hc _ ((forKiln_some hk _ _).trans (if_pos ⟨hready.1, hasRecipe_iff.mpr hready.2⟩))⟩
    exact ⟨h.1, hasRecipe_iff.mp h.2⟩
  case resume =>
    intro cool
    refine ⟨fun hnot => job_exec hworks hc _ ((forKiln_some hk _ _).trans (resumeRequest_refused (hnot.imp id (fun h => ?_)))),
      fun i hi hcool => ?_⟩
    · exact Bool.eq_false_iff.mpr (fun hp => h (plenumAllows_iff.mp hp))
    · obtain ⟨heq, hspec⟩ := resumed_spec k i (asked s)
      refine ⟨_, ?_, hspec⟩
      rw [← heq]
      exact job_exec hworks hc _ ((forKiln_some hk _ _).trans
        (resumeRequest_held (s := asked s) hi (plenumAllows_iff.mpr hcool)))
  case close =>
    exact ⟨fun hnot => job_exec hworks hc _ ((forKiln_some hk _ _).trans (if_neg hnot)),
      fun hfull => job_exec hworks hc _ ((forKiln_some hk _ _).trans (if_pos hfull))⟩
  case recipe =>
    refine ⟨fun hout => job_exec hworks hc _ ((forKiln_some hk _ _).trans (if_pos hout)), fun hle => ?_⟩
    exact ⟨_, job_exec hworks hc _ ((forKiln_some hk _ _).trans (if_neg (not_lt.mpr hle))), Tab.get_modify_self _ _ _,
      fun j hj => Tab.get_modify_ne _ _ (Ne.symm hj)⟩

/-! ### Forced ends (R75, R82, R83) -/

theorem forceEnd_refused {s : State} {k : Fin 4} (h : (s.kilns.get k).state = .empty ∨ (s.kilns.get k).state = .filling ∨
    (s.kilns.get k).state = .endpoint ∨ (s.kilns.get k).state = .unloading) : forceEnd k s = (s, refusal .refusedState) := by
  unfold forceEnd
  rcases h with h | h | h | h <;> rw [h]

theorem forceEnd_loaded {s : State} {k : Fin 4} (h : (s.kilns.get k).state = .loaded) :
    forceEnd k s = (forceLoaded k s, done []) := by
  rw [forceEnd, h]

theorem forceEnd_running {s : State} {k : Fin 4}
    (h : (∃ i, (s.kilns.get k).state = .drying i) ∨ ∃ i, (s.kilns.get k).state = .held i) :
    forceEnd k s = (forceRunning k s, done []) := by
  unfold forceEnd
  rcases h with ⟨i, h⟩ | ⟨i, h⟩ <;> rw [h]

theorem forceEnd_orphan {s : State} {k : Fin 4} (h : (s.kilns.get k).state = .orphan) :
    forceEnd k s = (forceOrphan k s, done []) := by
  rw [forceEnd, h]

theorem modifyKiln_congr {k : Fin 4} {g h : Kiln → Kiln} {s : State} (he : g (s.kilns.get k) = h (s.kilns.get k)) :
    modifyKiln k g s = modifyKiln k h s := by
  simp only [modifyKiln, Tab.modify, he]

/-- FORCED set on a kiln and on its load's lots changes no other kiln and no load. -/
theorem markForced_spec (k : Fin 4) (s : State) :
    (markForced k s).kilns.get k = { s.kilns.get k with forced := true } ∧ (markForced k s).kfr = s.kfr ∧
    (∀ j, j ≠ k → (markForced k s).kilns.get j = s.kilns.get j) ∧ (markForced k s).rct = s.rct := by
  have h := markForced_posted k s
  refine ⟨?_, h.kfr, fun j hj => ?_, h.rct⟩
  · rw [h.kilns, modifyKiln_self]
  · rw [h.kilns, modifyKiln_other _ _ hj]

/-- The rest time of the running recipe, the kiln's own without one (R82). -/
def runningRest (kl : Kiln) : Nat :=
  match kl.running with
  | none => kl.rest
  | some r => r.copy.rest

theorem forceRunning_eq (k : Fin 4) (s : State) : forceRunning k s = enterEndpoint k
    (modifyKiln k (fun kl => { kl with rest := runningRest (s.kilns.get k) }) (markForced k s)) := by
  obtain ⟨hkiln, -, -, -⟩ := markForced_spec k s
  refine congrArg (enterEndpoint k) (modifyKiln_congr (g := fun kl => { kl with rest := runningRest kl }) ?_)
  have hrest : runningRest ((markForced k s).kilns.get k) = runningRest (s.kilns.get k) := by rw [hkiln]; rfl
  rw [hrest]

/-- A kiln that has entered ENDPOINT, before the commands, the report to the UAR and the occurrence (R75). -/
def endpointEntered (k : Fin 4) (s : State) : State :=
  let s1 := modifyKiln k (fun kl => { kl with debounce := 0, causes := ⟨false, false, false⟩ }) (moveKiln k .endpoint s)
  modifyKiln k (fun kl => { kl with
    endpointTime := some (stampNow s1)
    overdry := some (after s1.clock (60000 * s1.mgu.config.overdryLimit)) }) s1

theorem enterEndpoint_eq (k : Fin 4) (s : State) :
    enterEndpoint k s = postEvent .endpoint (kilnContext k) (joinRequests k (postEndpoint k (endpointEntered k s))) := rfl

theorem endpointEntered_spec (k : Fin 4) (s : State) :
    (endpointEntered k s).kilns.get k = { s.kilns.get k with
      state := .endpoint, debounce := 0, causes := ⟨false, false, false⟩, endpointTime := some ⟨s.clock, validTime s⟩
      overdry := some (after s.clock (60000 * s.mgu.config.overdryLimit)) } ∧
    ∀ j, j ≠ k → (endpointEntered k s).kilns.get j = s.kilns.get j := by
  have hmoved := kilnsOnly_moveKiln k .endpoint s
  have hmgu : (moveKiln k .endpoint s).mgu = { s.mgu with events := (moveKiln k .endpoint s).mgu.events } := hmoved.tables.2.2.2
  have hclock : (moveKiln k .endpoint s).clock = s.clock := hmoved.surroundings.2.2.1
  unfold endpointEntered
  refine ⟨?_, fun j hj => ?_⟩
  · have htime : validTime (moveKiln k .endpoint s) = validTime s := by
      rw [validTime, hmgu]
      rfl
    have hconfig : (moveKiln k .endpoint s).mgu.config = s.mgu.config := by rw [hmgu]
    rw [modifyKiln_self, modifyKiln_self, moveKiln_self, ← htime, ← hclock, ← hconfig]
    rfl
  · rw [modifyKiln_other _ _ hj, modifyKiln_other _ _ hj, moveKiln_other _ _ hj]

/-- The kiln and load of a forced end from ORPHAN, before its evaluation timer is armed (R83 steps 1 to 3). -/
def orphanLoaded (k : Fin 4) (s : State) : State :=
  let numbered := onKfr (fun b => { b with nextSerial := nextInSequence 65535 b.nextSerial }) (setLoad k (orphanLoad s k) s)
  modifyKiln k (fun kl => { kl with
    forced := true, estimate := numbered.mgu.config.reference, rest := 0, running := none }) numbered

theorem forceOrphan_eq (k : Fin 4) (s : State) : forceOrphan k s = enterEndpoint k (armTimer k (orphanLoaded k s)) := rfl

theorem orphanLoaded_spec (k : Fin 4) (s : State) :
    let u := orphanLoaded k s
    let green := min (heldValue s (s.kfr.setups.get k).scale).toNat 4294967295
    let r := s.mgu.config.reference
    u = { s with kfr := u.kfr, kilns := u.kilns } ∧ (∀ j, j ≠ k → u.kilns.get j = s.kilns.get j) ∧
    u.kfr.loads.get k = ⟨some s.kfr.nextSerial, [⟨none, 0, green, r, green * (1000 - r) / 1000⟩], 0, false⟩ ∧
    (u.kilns.get k).forced = true ∧ (u.kilns.get k).estimate = r ∧ (u.kilns.get k).rest = 0 ∧
    (u.kilns.get k).running = none ∧ u.kfr.nextSerial = nextInSequence 65535 s.kfr.nextSerial := by
  have hkiln := modifyKiln_self k (fun kl => { kl with forced := true, estimate := s.mgu.config.reference, rest := 0, running := none })
    (onKfr (fun b => { b with nextSerial := nextInSequence 65535 b.nextSerial }) (setLoad k (orphanLoad s k) s))
  refine ⟨rfl, fun j hj => modifyKiln_other _ _ hj, Tab.get_set_self _ _ _, ?_, ?_, ?_, ?_, rfl⟩
  · exact congrArg Kiln.forced hkiln
  · exact congrArg Kiln.estimate hkiln
  · exact congrArg Kiln.rest hkiln
  · exact congrArg Kiln.running hkiln

/-- Settles O45: `forceEnd` by the kiln's state, FORCED on the kiln and its lots, and the entry to ENDPOINT. -/
theorem kilnForceEndByKilnState : Obligations.KilnForceEndByKilnState := by
  refine ⟨fun f s hworks hc => ⟨fun hout => job_exec hworks hc _ (forKiln_none hout _ _), fun k hk => ⟨fun hstate =>
    job_exec hworks hc _ ((forKiln_some hk _ _).trans (forceEnd_refused (s := asked s) hstate)), fun hstate => ?loaded, fun hstate => ?running,
    ?forced, fun hstate => ?orphan⟩⟩, fun k s => ⟨rfl, endpointEntered k s, enterEndpoint_eq k s, endpointEntered_spec k s⟩⟩
  case loaded =>
    refine job_exec hworks hc _ ((forKiln_some hk _ _).trans ((forceEnd_loaded (s := asked s) hstate).trans ?_))
    obtain ⟨-, hkfr, -, hrct⟩ := markForced_spec k (asked s)
    simp only [forceLoaded, setupOf, recipeOf, hkfr, hrct]
    rfl
  case running =>
    intro rest
    have hrest : runningRest ((asked s).kilns.get k) = rest := by
      show runningRest (s.kilns.get k) = rest
      simp only [rest, runningRest]
      cases (s.kilns.get k).running <;> rfl
    refine job_exec hworks hc _ ((forKiln_some hk _ _).trans ((forceEnd_running (s := asked s) hstate).trans ?_))
    rw [forceRunning_eq, hrest]
  case forced =>
    obtain ⟨hkiln, hkfr, hothers, -⟩ := markForced_spec k (asked s)
    exact ⟨hkiln, hkfr, hothers⟩
  case orphan =>
    exact ⟨orphanLoaded k (asked s), job_exec hworks hc _ ((forKiln_some hk _ _).trans (forceEnd_orphan (s := asked s) hstate)),
      orphanLoaded_spec k (asked s)⟩

end Sys2Proof.Machine
end

section
/-! Drying: the start of a kiln and the evaluation of one (R66 to R77, R80). -/

namespace Sys2Proof.Machine

/-! ### What stands between two states whose settings are the same -/

theorem Firm.clock {s t : State} (h : Firm [] s t) : t.clock = s.clock := h.settings .clock List.not_mem_nil

theorem Firm.config {s t : State} (h : Firm [] s t) : t.mgu.config = s.mgu.config := h.settings .config List.not_mem_nil

theorem Firm.configValid {s t : State} (h : Firm [] s t) : t.mgu.configValid = s.mgu.configValid :=
  h.settings .configValid List.not_mem_nil

theorem Firm.setupOf {s t : State} (h : Firm [] s t) (k : Fin 4) : setupOf t k = setupOf s k :=
  congrArg (·.get k) (h.settings .setups List.not_mem_nil)

theorem Firm.viewOf {s t : State} (h : Firm [] s t) (c : Nat) : viewOf t c = viewOf s c := by
  have hchannels : t.channels = s.channels := h.settings .channels List.not_mem_nil
  rw [Machine.viewOf, Machine.viewOf, h.clock, hchannels]

theorem Firm.isLive {s t : State} (h : Firm [] s t) (c : Nat) : isLive t c = isLive s c := by
  rw [Machine.isLive, Machine.isLive, h.viewOf]

theorem Firm.heldValue {s t : State} (h : Firm [] s t) (c : Nat) : heldValue t c = heldValue s c := by
  rw [Machine.heldValue, Machine.heldValue, h.viewOf]

/-! ### A drying start (R68) -/

theorem SameButCommands.fields {a b : Kiln} (h : SameButCommands a b) : b.state = a.state ∧ b.causes = a.causes ∧
    b.running = a.running ∧ b.rest = a.rest ∧ b.elapsed = a.elapsed ∧ b.debounce = a.debounce ∧ b.suspectRun = a.suspectRun ∧
    b.evalDeadline = a.evalDeadline ∧ b.setpoint = a.setpoint ∧ b.estimate = a.estimate := by
  unfold SameButCommands at h
  rw [h]
  exact ⟨rfl, rfl, rfl, rfl, rfl, rfl, rfl, rfl, rfl, rfl⟩

theorem kilns_mismatchCheck (k : Fin 4) (s : State) : (mismatchCheck k s).kilns = s.kilns := by
  have hmark : (markSuspect k s).kilns = s.kilns := (markSuspect_posted k s).kilns
  unfold mismatchCheck
  split
  · split
    · rw [kilns_postEvent, hmark]
    · rfl
  · rw [kilns_postEvent, hmark]

/-- The setpoint that a drying start begins from: the plenum's, within the ceiling, or 30.0 degrees (R68 step 3). -/
theorem startSetpoint_eq (s : State) (k : Fin 4) : startSetpoint s k = if isLive s (setupOf s k).plenum = true then
    max 0 (min ((setupOf s k).ceiling : Int) (heldValue s (setupOf s k).plenum)) else 300 := by
  rw [startSetpoint, clampInt_eq_max_min (Int.natCast_nonneg _), min_comm]

/-- The kiln with its running copy of the assigned recipe (R68 step 1). -/
def recipeCopied (k : Fin 4) (s : State) : State :=
  modifyKiln k (fun kl => { kl with
    running := some ⟨(setupOf s k).recipe, recipeOf s (setupOf s k).recipe⟩
    rest := (recipeOf s (setupOf s k).recipe).rest }) s

/-- The kiln at the beginning of its first stage (R68 steps 2 and 3). -/
def firstStage (k : Fin 4) (s : State) : State :=
  modifyKiln k (fun kl => { kl with
    setpoint := if isLive s (setupOf s k).plenum = true then
      max 0 (min ((setupOf s k).ceiling : Int) (heldValue s (setupOf s k).plenum)) else 300
    elapsed := 0, debounce := 0, suspectRun := false }) (mismatchCheck k (recipeCopied k s))

/-- The kiln DRYING, its timer armed and its commands posted (R68 steps 4 to 6). -/
def dryingPosted (k : Fin 4) (s : State) : State :=
  postDrying k 1 (armTimer k (moveKiln k (.drying 1) (firstStage k s)))

theorem firm_checked (k : Fin 4) (s : State) : Firm [] s (mismatchCheck k (recipeCopied k s)) :=
  (firm_modifyKiln k _ s).trans (firm_mismatchCheck k _)

theorem firm_dryingPosted (k : Fin 4) (s : State) : Firm [] s (dryingPosted k s) :=
  ((firm_checked k s).trans (firm_modifyKiln k _ _)).trans
    (((firm_moveKiln k _ _).trans (firm_armTimer k _)).trans (firm_postDrying k 1 _))

theorem startDrying_eq (k : Fin 4) (s : State) : startDrying k s =
    if isLive s (setupOf s k).plenum = true then dryingPosted k s else holdKiln k ⟨true, false, false⟩ (dryingPosted k s) := by
  have hchecked := firm_checked k s
  have hposted := firm_dryingPosted k s
  unfold startDrying
  extract_lets number copy s1 s2 s3 s4 s5
  have hs3 : s3 = firstStage k s := by
    have hsetpoint := startSetpoint_eq s2 k
    rw [show s2 = mismatchCheck k (recipeCopied k s) from rfl, hchecked.setupOf, hchecked.isLive, hchecked.heldValue] at hsetpoint
    simp only [s3, firstStage, ← hsetpoint]
    rfl
  have hs5 : s5 = dryingPosted k s := by simp only [s5, s4, hs3, dryingPosted]
  rw [hs5, hposted.setupOf, hposted.isLive]
  rfl

theorem firstStage_kilns (k : Fin 4) (s : State) :
    (firstStage k s).kilns.get k = { s.kilns.get k with
      running := some ⟨(setupOf s k).recipe, recipeOf s (setupOf s k).recipe⟩, rest := (recipeOf s (setupOf s k).recipe).rest
      setpoint := if isLive s (setupOf s k).plenum = true then
        max 0 (min ((setupOf s k).ceiling : Int) (heldValue s (setupOf s k).plenum)) else 300
      elapsed := 0, debounce := 0, suspectRun := false } ∧
    ∀ j, j ≠ k → (firstStage k s).kilns.get j = s.kilns.get j := by
  unfold firstStage
  refine ⟨?_, fun j hj => ?_⟩
  · rw [modifyKiln_self, kilns_mismatchCheck, recipeCopied, modifyKiln_self]
  · rw [modifyKiln_other _ _ hj, kilns_mismatchCheck, recipeCopied, modifyKiln_other _ _ hj]

/-- The kiln whose commands have been posted at a drying start, but for what is noted of them. -/
theorem dryingPosted_spec (k : Fin 4) (s : State) :
    SameButCommands { s.kilns.get k with
      running := some ⟨(setupOf s k).recipe, recipeOf s (setupOf s k).recipe⟩, rest := (recipeOf s (setupOf s k).recipe).rest
      setpoint := if isLive s (setupOf s k).plenum = true then
        max 0 (min ((setupOf s k).ceiling : Int) (heldValue s (setupOf s k).plenum)) else 300
      elapsed := 0, debounce := 0, suspectRun := false, state := .drying 1
      evalDeadline := some (after s.clock (1000 * s.mgu.config.evalInterval)) } ((dryingPosted k s).kilns.get k) ∧
    ∀ j, j ≠ k → (dryingPosted k s).kilns.get j = s.kilns.get j := by
  have hcommands := commanded_postDrying k 1 (armTimer k (moveKiln k (.drying 1) (firstStage k s)))
  have hfirm : Firm [] s (moveKiln k (.drying 1) (firstStage k s)) :=
    ((firm_checked k s).trans (firm_modifyKiln k _ _)).trans (firm_moveKiln k _ _)
  obtain ⟨hself, hother⟩ := firstStage_kilns k s
  refine ⟨?_, fun j hj => ?_⟩
  · have harmed : (armTimer k (moveKiln k (.drying 1) (firstStage k s))).kilns.get k =
        { (firstStage k s).kilns.get k with
          state := .drying 1, evalDeadline := some (after s.clock (1000 * s.mgu.config.evalInterval)) } := by
      rw [armTimer, modifyKiln_self, moveKiln_self, hfirm.clock, hfirm.config]
    rw [hself] at harmed
    rw [dryingPosted, ← harmed]
    exact hcommands.kiln
  · rw [dryingPosted, hcommands.others j hj, armTimer, modifyKiln_other _ _ hj, moveKiln_other _ _ hj, hother j hj]

/-- Settles O46: the start by `startDrying_eq`, its kiln by `dryingPosted_spec`, and the hold of a plenum that is not LIVE. -/
theorem dryingStartsFromTheAssignedRecipe : Obligations.DryingStartsFromTheAssignedRecipe := by
  intro k s e t kl
  obtain ⟨hkiln, hothers⟩ := dryingPosted_spec k s
  have heq : t = if isLive s e.plenum = true then dryingPosted k s else holdKiln k ⟨true, false, false⟩ (dryingPosted k s) :=
    startDrying_eq k s
  obtain ⟨hdrying, -, hrunning, hrest, helapsed, hdebounce, hsuspect, heval, hset, -⟩ := hkiln.fields
  obtain ⟨-, hheld, hheldOthers⟩ := holdKiln_drying hdrying ⟨true, false, false⟩
  obtain ⟨hstate', hcauses', hrunning', hrest', helapsed', hdebounce', hsuspect', heval', hset', -⟩ := hheld.fields
  dsimp only at hdrying hrunning hrest helapsed hdebounce hsuspect heval hset hrunning' hrest' helapsed' hdebounce' hsuspect' heval'
  dsimp only at hset' hstate' hcauses'
  rcases Bool.eq_false_or_eq_true (isLive s e.plenum) with hlive | hlive
  · have ht : t = dryingPosted k s := heq.trans (if_pos hlive)
    have hkl : kl = (dryingPosted k s).kilns.get k := congrArg (fun u : State => u.kilns.get k) ht
    rw [hkl]
    refine ⟨⟨fun _ => ht, fun h => absurd (hlive.symm.trans h) (by decide)⟩, hrunning, hrest, helapsed, hdebounce, hsuspect, heval,
      fun _ => ⟨hdrying, hset.trans (if_pos hlive)⟩, fun h => absurd (hlive.symm.trans h) (by decide), fun j hj => ?_⟩
    rw [ht]
    exact hothers j hj
  · have hne : ¬ isLive s e.plenum = true := by rw [hlive]; decide
    have ht : t = holdKiln k ⟨true, false, false⟩ (dryingPosted k s) := heq.trans (if_neg hne)
    have hkl : kl = (holdKiln k ⟨true, false, false⟩ (dryingPosted k s)).kilns.get k := congrArg (fun u : State => u.kilns.get k) ht
    rw [hkl]
    refine ⟨⟨fun h => absurd h hne, fun _ => ht⟩, hrunning'.trans hrunning, hrest'.trans hrest, helapsed'.trans helapsed,
      hdebounce', hsuspect'.trans hsuspect, heval'.trans heval, fun h => absurd h hne,
      fun _ => ⟨hstate', hcauses', (hset'.trans hset).trans (if_neg hne)⟩, fun j hj => ?_⟩
    rw [ht]
    exact (hheldOthers j hj).trans (hothers j hj)

/-! ### The moisture estimate (R71, R154) -/

theorem formEstimate_notLive {k : Fin 4} {s : State} (h : isLive s (setupOf s k).scale = false) :
    formEstimate k s = modifyKiln k (fun kl => { kl with debounce := 0 }) s :=
  if_neg (by rw [h]; decide)

/-- An estimate that ends the suspect run. -/
theorem formEstimate_good {k : Fin 4} {s : State} {m : Nat} (h : isLive s (setupOf s k).scale = true)
    (hm : moistureEstimate (netOf s k) (dryTotal (loadOf s k)) = (m, false)) :
    formEstimate k s = modifyKiln k (fun kl => { kl with estimate := m, suspectRun := false }) s := by
  simp only [formEstimate, if_pos h, hm, Bool.false_eq_true, if_false]

/-- An estimate that begins or continues a suspect run. -/
theorem formEstimate_suspect {k : Fin 4} {s : State} {m : Nat} (h : isLive s (setupOf s k).scale = true)
    (hm : moistureEstimate (netOf s k) (dryTotal (loadOf s k)) = (m, true)) :
    let kept := modifyKiln k (fun kl => { kl with estimate := m, suspectRun := true }) s
    formEstimate k s = if (s.kilns.get k).suspectRun then kept
      else postEvent .scaleSuspect (kilnContext k) (if (loadOf s k).suspect then kept else markSuspect k kept) := by
  simp only [formEstimate, if_pos h, hm, if_true]

theorem moistureEstimate_cases (net dry : Nat) :
    (dry < net → moistureEstimate net dry = (min 999 ((net - dry) * 1000 / net), false)) ∧
    (net = 0 → moistureEstimate net dry = (0, false)) ∧ (0 < net → net ≤ dry → moistureEstimate net dry = (0, true)) := by
  unfold moistureEstimate
  refine ⟨fun h => if_pos h, fun h => ?_, fun h h' => ?_⟩
  · rw [if_neg (by omega), if_neg (by omega)]
  · rw [if_neg (by omega), if_pos h]

theorem running_formEstimate (k : Fin 4) (s : State) : ((formEstimate k s).kilns.get k).state = (s.kilns.get k).state ∧
    ((formEstimate k s).kilns.get k).running = (s.kilns.get k).running ∧
    ((formEstimate k s).kilns.get k).elapsed = (s.kilns.get k).elapsed ∧
    ((formEstimate k s).kilns.get k).evalDeadline = (s.kilns.get k).evalDeadline ∧
    ((formEstimate k s).kilns.get k).setpoint = (s.kilns.get k).setpoint := by
  rw [(formEstimate_kilns k s).2]
  split <;> exact ⟨rfl, rfl, rfl, rfl, rfl⟩

/-! ### The evaluation of a DRYING kiln (R71 to R73) -/

/-- The setpoint moves to the stage's, by at most one step of its ramp (R71). -/
theorem rampSetpoint_spec (st : Stage) (e : Nat) (sp : Int) :
    let step : Int := max 1 (st.ramp * e / 60 : Nat)
    let gap : Int := (st.setpoint : Int) - sp
    ((st.ramp = 0 ∨ (-step ≤ gap ∧ gap ≤ step)) → rampSetpoint st e sp = (st.setpoint : Int)) ∧
    (st.ramp ≠ 0 → step < gap → rampSetpoint st e sp = sp + step) ∧
    (st.ramp ≠ 0 → gap < -step → rampSetpoint st e sp = sp - step) := by
  intro step gap
  have hpos : 1 ≤ step := le_max_left _ _
  have hstep : max 1 ((st.ramp : Int) * (e : Int) / 60) = step := by simp only [step]; push_cast; rfl
  simp only [rampSetpoint, hstep]
  refine ⟨fun h => ?_, fun hr hg => ?_, fun hr hg => ?_⟩
  · split_ifs <;> omega
  · rw [if_neg hr]; split_ifs <;> omega
  · rw [if_neg hr]; split_ifs <;> omega

/-- The kiln before its estimate is formed: stage elapsed and setpoint advanced (R71). -/
def advancedKiln (k : Fin 4) (sp : Int) (s : State) : State :=
  modifyKiln k (fun kl => { kl with elapsed := min 86400 (kl.elapsed + s.mgu.config.evalInterval), setpoint := sp }) s

/-- The evaluated kiln, its debounce count kept by the threshold (R71, R72). -/
def evaluatedKiln (k : Fin 4) (st : Stage) (sp : Int) (s : State) : State :=
  let formed := formEstimate k (advancedKiln k sp s)
  modifyKiln k (fun kl => { kl with debounce := debounced formed k st }) formed

/-- The end of the evaluation of a DRYING kiln: the stage ended by its condition, by an overrun, or kept (R72 to R74). -/
theorem evaluateDrying_eq (k : Fin 4) (i : Nat) (s : State) :
    let st := stageAt (s.kilns.get k) i
    let u := evaluatedKiln k st (rampSetpoint st s.mgu.config.evalInterval (s.kilns.get k).setpoint) s
    evaluateDrying k i s = if conditionMet (u.kilns.get k) st then endStage k i false u
      else if st.max * 60 ≤ (u.kilns.get k).elapsed then endStage k i true u else postDrying k i u := by
  intro st u
  have hadvanced : modifyKiln k (fun kl => { kl with
      elapsed := min 86400 (kl.elapsed + s.mgu.config.evalInterval)
      setpoint := rampSetpoint st s.mgu.config.evalInterval kl.setpoint }) s =
      advancedKiln k (rampSetpoint st s.mgu.config.evalInterval (s.kilns.get k).setpoint) s := modifyKiln_congr rfl
  simp only [evaluateDrying, show stageAt (s.kilns.get k) i = st from rfl, hadvanced]
  rfl

/-- The end of a stage by the stages that are left (R73). -/
theorem endStage_eq (k : Fin 4) (i : Nat) (overrun : Bool) (s : State) :
    let w := if overrun then postEvent .stageOverrun (kilnContext k) s else s
    let next := postDrying k (i + 1)
      (modifyKiln k (fun kl => { kl with elapsed := 0, debounce := 0 }) (moveKiln k (.drying (i + 1)) w))
    (i < stageCount (s.kilns.get k) → endStage k i overrun s = next) ∧
    (stageCount (s.kilns.get k) ≤ i → endStage k i overrun s = enterEndpoint k w) := by
  intro w next
  have hcount : stageCount (w.kilns.get k) = stageCount (s.kilns.get k) := by
    simp only [w]
    split
    · rw [kilns_postEvent]
    · rfl
  refine ⟨fun h => if_pos ?_, fun h => if_neg ?_⟩
  · exact lt_of_lt_of_eq h hcount.symm
  · exact fun hlt => absurd (lt_of_lt_of_eq hlt hcount) (not_lt.mpr h)

/-- The evaluation meets the threshold of a stage that ends by one (R72). -/
def meetsStage (s : State) (k : Fin 4) (st : Stage) (estimate : Nat) : Prop :=
  match st.endKind with
  | .time => False
  | .rh => isLive s (s.kfr.setups.get k).exhaust = true ∧ heldValue s (s.kfr.setups.get k).exhaust ≤ (st.threshold : Int)
  | .moisture => isLive s (s.kfr.setups.get k).scale = true ∧ estimate ≤ st.threshold

theorem meetsThreshold_iff {s : State} {k : Fin 4} {st : Stage} :
    meetsThreshold s k st = true ↔ meetsStage s k st (s.kilns.get k).estimate := by
  unfold meetsThreshold meetsStage setupOf
  cases st.endKind <;> simp

theorem debounced_threshold {s : State} {k : Fin 4} {st : Stage} (h : st.endKind ≠ .time) :
    debounced s k st = if meetsThreshold s k st then min 3 ((s.kilns.get k).debounce + 1) else 0 := by
  unfold debounced
  cases hkind : st.endKind with
  | time => exact absurd hkind h
  | rh => rfl
  | moisture => rfl

theorem firm_formed (k : Fin 4) (sp : Int) (s : State) : Firm [] s (formEstimate k (advancedKiln k sp s)) :=
  (firm_modifyKiln k _ s).trans (firm_formEstimate k _)

/-- The kiln whose estimate has been formed in an evaluation of DRYING, field by field (R71). -/
theorem formedKiln_fields (k : Fin 4) (sp : Int) (s : State) :
    let kl := (formEstimate k (advancedKiln k sp s)).kilns.get k
    let live := isLive s (setupOf s k).scale
    kl.elapsed = min 86400 ((s.kilns.get k).elapsed + s.mgu.config.evalInterval) ∧
    kl.evalDeadline = (s.kilns.get k).evalDeadline ∧ kl.state = (s.kilns.get k).state ∧
    kl.running = (s.kilns.get k).running ∧ kl.setpoint = sp ∧
    kl.estimate = (if live then (moistureEstimate (netOf s k) (dryTotal (loadOf s k))).1 else (s.kilns.get k).estimate) ∧
    kl.debounce = (if live then (s.kilns.get k).debounce else 0) := by
  intro kl live
  have hadvanced : (advancedKiln k sp s).kilns.get k = { s.kilns.get k with
      elapsed := min 86400 ((s.kilns.get k).elapsed + s.mgu.config.evalInterval), setpoint := sp } := modifyKiln_self _ _ _
  have hformed := (formEstimate_kilns k (advancedKiln k sp s)).2
  rw [hadvanced, show isLive (advancedKiln k sp s) (setupOf (advancedKiln k sp s) k).scale = live from rfl] at hformed
  have hkl : kl = _ := hformed
  rcases Bool.eq_false_or_eq_true live with hlive | hlive <;> rw [hlive] at hkl ⊢ <;> rw [hkl]
  · exact ⟨rfl, rfl, rfl, rfl, rfl, rfl, rfl⟩
  · exact ⟨rfl, rfl, rfl, rfl, rfl, rfl, rfl⟩

/-- The evaluated kiln field by field: what the estimate leaves, and the debounce count by the stage's kind (R71, R72). -/
theorem evaluatedKiln_spec (k : Fin 4) (st : Stage) (sp : Int) (s : State) :
    let u := evaluatedKiln k st sp s
    let kl := u.kilns.get k
    let live := isLive s (setupOf s k).scale
    let count := if live = true then (s.kilns.get k).debounce else 0
    u = modifyKiln k (fun l => { l with debounce := kl.debounce }) (formEstimate k (advancedKiln k sp s)) ∧
    kl.elapsed = min 86400 ((s.kilns.get k).elapsed + s.mgu.config.evalInterval) ∧
    kl.evalDeadline = (s.kilns.get k).evalDeadline ∧ kl.state = (s.kilns.get k).state ∧
    kl.running = (s.kilns.get k).running ∧ kl.setpoint = sp ∧
    (live = false → kl.estimate = (s.kilns.get k).estimate) ∧
    (live = true → kl.estimate = (moistureEstimate (netOf s k) (dryTotal (loadOf s k))).1) ∧
    (st.endKind = .time → kl.debounce = count) ∧
    (st.endKind ≠ .time → meetsStage s k st kl.estimate → kl.debounce = min 3 (count + 1)) ∧
    (st.endKind ≠ .time → ¬ meetsStage s k st kl.estimate → kl.debounce = 0) ∧
    ∀ j, j ≠ k → u.kilns.get j = s.kilns.get j := by
  intro u kl live count
  let formed := formEstimate k (advancedKiln k sp s)
  have hkl : kl = { formed.kilns.get k with debounce := debounced formed k st } := modifyKiln_self _ _ _
  obtain ⟨helapsed, heval, hstate, hrunning, hset, hestimate, hdebounce⟩ := formedKiln_fields k sp s
  have hfirm : Firm [] s formed := firm_formed k sp s
  have hmeets : meetsThreshold formed k st = true ↔ meetsStage s k st kl.estimate := by
    have hsetup : formed.kfr.setups.get k = s.kfr.setups.get k := hfirm.setupOf k
    rw [meetsThreshold_iff, meetsStage, meetsStage, hkl]
    simp only [hsetup, hfirm.isLive, hfirm.heldValue]
  have hcount : kl.debounce = debounced formed k st := congrArg Kiln.debounce hkl
  refine ⟨?_, (congrArg Kiln.elapsed hkl).trans helapsed, (congrArg Kiln.evalDeadline hkl).trans heval,
    (congrArg Kiln.state hkl).trans hstate, (congrArg Kiln.running hkl).trans hrunning, (congrArg Kiln.setpoint hkl).trans hset,
    fun h => ?_, fun h => ?_, fun htime => ?_, fun hkind hbelow => ?_, fun hkind hbelow => ?_, fun j hj => ?_⟩
  · rw [hcount]
    rfl
  · exact ((congrArg Kiln.estimate hkl).trans hestimate).trans (if_neg (by rw [show isLive s (setupOf s k).scale = _ from h]; decide))
  · exact ((congrArg Kiln.estimate hkl).trans hestimate).trans (if_pos h)
  · rw [hcount]
    simp only [debounced, htime]
    exact hdebounce
  · rw [hcount, debounced_threshold hkind, if_pos (hmeets.mpr hbelow), show (formed.kilns.get k).debounce = count from hdebounce]
  · rw [hcount, debounced_threshold hkind, if_neg (fun h => hbelow (hmeets.mp h))]
  · show (modifyKiln k _ formed).kilns.get j = _
    rw [modifyKiln_other _ _ hj, (formEstimate_kilns k (advancedKiln k sp s)).1 j hj]
    exact modifyKiln_other _ _ hj

theorem conditionMet_iff {kl : Kiln} {st : Stage} : conditionMet kl st = true ↔
    (st.endKind = .time ∧ st.max * 60 ≤ kl.elapsed) ∨ (st.endKind ≠ .time ∧ kl.debounce = 3 ∧ st.min * 60 ≤ kl.elapsed) := by
  unfold conditionMet
  cases st.endKind <;> simp

theorem armTimer_kiln (k : Fin 4) (s : State) : (armTimer k s).kilns.get k =
    { s.kilns.get k with evalDeadline := some (after s.clock (1000 * s.mgu.config.evalInterval)) } := modifyKiln_self _ _ _

theorem armTimer_state (k : Fin 4) (s : State) : ((armTimer k s).kilns.get k).state = (s.kilns.get k).state := by
  rw [armTimer_kiln]

theorem evaluate_held {k : Fin 4} {s : State} {i : Nat} (h : (s.kilns.get k).state = .held i) :
    evaluate k s = postHeld k i (formEstimate k (armTimer k s)) := by
  simp only [evaluate, armTimer_state, h]

theorem evaluate_endpoint {k : Fin 4} {s : State} (h : (s.kilns.get k).state = .endpoint) :
    evaluate k s = postEndpoint k (if unassignedLoad s k then armTimer k s else formEstimate k (armTimer k s)) := by
  simp only [evaluate, armTimer_state, h]
  rfl

theorem evaluate_drying {k : Fin 4} {s : State} {i : Nat} (h : (s.kilns.get k).state = .drying i) :
    evaluate k s = evaluateDrying k i (armTimer k s) := by
  simp only [evaluate, armTimer_state, h]

theorem unassignedLoad_iff {s : State} {k : Fin 4} :
    unassignedLoad s k = true ↔ ∃ c ∈ (s.kfr.loads.get k).contributions, c.slot = none := by
  unfold unassignedLoad loadOf
  simp only [List.any_eq_true, Option.isNone_iff_eq_none]

/-- The setpoint and the kiln that an evaluation in DRYING, stage `i`, comes to (R71, R72). -/
def evaluatedSetpoint (k : Fin 4) (i : Nat) (s : State) : Int :=
  rampSetpoint (stageAt (s.kilns.get k) i) s.mgu.config.evalInterval (s.kilns.get k).setpoint

def evaluatedDrying (k : Fin 4) (i : Nat) (s : State) : State :=
  evaluatedKiln k (stageAt (s.kilns.get k) i) (evaluatedSetpoint k i s) (armTimer k s)

/-- The end of the evaluation of a DRYING kiln, from the expiry of its timer. -/
theorem evaluate_drying_eq {k : Fin 4} {s : State} {i : Nat} (h : (s.kilns.get k).state = .drying i) :
    let st := stageAt (s.kilns.get k) i
    let u := evaluatedDrying k i s
    let next (w : State) := postDrying k (i + 1)
      (modifyKiln k (fun kl => { kl with elapsed := 0, debounce := 0 }) (moveKiln k (.drying (i + 1)) w))
    let w := postEvent .stageOverrun (kilnContext k) u
    let met := conditionMet (u.kilns.get k) st = true
    (met → i < stageCount (s.kilns.get k) → evaluate k s = next u) ∧
    (met → stageCount (s.kilns.get k) ≤ i → evaluate k s = enterEndpoint k u) ∧
    (¬ met → (u.kilns.get k).elapsed < st.max * 60 → evaluate k s = postDrying k i u) ∧
    (¬ met → st.max * 60 ≤ (u.kilns.get k).elapsed → i < stageCount (s.kilns.get k) → evaluate k s = next w) ∧
    (¬ met → st.max * 60 ≤ (u.kilns.get k).elapsed → stageCount (s.kilns.get k) ≤ i → evaluate k s = enterEndpoint k w) := by
  intro st u next w met
  have hstage : stageAt ((armTimer k s).kilns.get k) i = st := by rw [armTimer_kiln]; rfl
  have hsp : ((armTimer k s).kilns.get k).setpoint = (s.kilns.get k).setpoint := by rw [armTimer_kiln]
  have heq := evaluateDrying_eq k i (armTimer k s)
  rw [hstage, hsp, show (armTimer k s).mgu.config = s.mgu.config from rfl, ← evaluate_drying h] at heq
  have hcount : stageCount (u.kilns.get k) = stageCount (s.kilns.get k) := by
    obtain ⟨-, -, -, -, hrunning, -⟩ := evaluatedKiln_spec k st (evaluatedSetpoint k i s) (armTimer k s)
    have hrun : (u.kilns.get k).running = (s.kilns.get k).running := hrunning.trans (by rw [armTimer_kiln])
    simp only [stageCount, hrun]
  obtain ⟨hnext, hlast⟩ := endStage_eq k i false u
  obtain ⟨hover, hoverLast⟩ := endStage_eq k i true u
  rw [hcount] at hnext hlast hover hoverLast
  refine ⟨fun hm hlt => (heq.trans (if_pos hm)).trans (hnext hlt), fun hm hle => (heq.trans (if_pos hm)).trans (hlast hle),
    fun hm hlt => (heq.trans (if_neg hm)).trans (if_neg (not_le.mpr hlt)),
    fun hm hle hlt => ((heq.trans (if_neg hm)).trans (if_pos hle)).trans (hover hlt),
    fun hm hle hlt => ((heq.trans (if_neg hm)).trans (if_pos hle)).trans (hoverLast hlt)⟩

/-- Settles O47: the expiry by the kiln's state, its DRYING evaluation by the lemmas above, and the estimate by its cases. -/
theorem evaluationOfAKiln : Obligations.EvaluationOfAKiln := by
  refine ⟨fun k d s hdeadline hreached => ?expiry, fun k s => ?estimate⟩
  case estimate =>
    intro net dry kept
    obtain ⟨hgood, hzero, hsuspect⟩ := moistureEstimate_cases net dry
    refine ⟨rfl, formEstimate_notLive, fun hlive => ⟨fun h => formEstimate_good hlive (hgood h),
      fun h => formEstimate_good hlive (hzero h), fun h h' => ?_⟩⟩
    have heq := formEstimate_suspect hlive (hsuspect h h')
    refine ⟨fun hrun => heq.trans (if_pos hrun), fun hrun hload => heq.trans ?_, fun hrun hload => heq.trans ?_⟩
    · rw [hrun, hload]; rfl
    · rw [hrun, hload]; rfl
  case expiry =>
    intro e armed
    have hdue : evaluationDue s k = true := by rw [evaluationDue, hdeadline]; exact hreached
    have hexec : exec (.evaluationExpiry k) s = .next (startPortB (evaluate k s)) := atDeadline_reached hdue (evaluate k) s
    rw [hexec]
    refine ⟨fun i hi => ?held, fun hend => ?endpoint, fun i hi => ?drying⟩
    case held =>
      rw [evaluate_held hi]
      rfl
    case endpoint =>
      rw [evaluate_endpoint hend]
      refine ⟨fun hnone => ?_, fun hall => ?_⟩
      · rw [if_pos (unassignedLoad_iff.mpr hnone)]
        rfl
      · rw [if_neg (fun h => let ⟨c, hc, hslot⟩ := unassignedLoad_iff.mp h; hall c hc hslot)]
        rfl
    case drying =>
      obtain ⟨hnext, hlast, hkeep, hover, hoverLast⟩ := evaluate_drying_eq hi
      obtain ⟨hu, helapsed, heval, hstate, hrunning, hset, hdead, hlive, htime, habove, hunder, hothers⟩ :=
        evaluatedKiln_spec k (stageAt (s.kilns.get k) i) (evaluatedSetpoint k i s) (armTimer k s)
      rw [armTimer_kiln] at helapsed heval hstate hrunning hdead htime habove
      refine ⟨evaluatedSetpoint k i s, evaluatedDrying k i s, ?_⟩
      intro st entry formed kl step gap below count met
      obtain ⟨hnear, hrise, hfall⟩ := rampSetpoint_spec st e (s.kilns.get k).setpoint
      have hmet : met ↔ conditionMet kl st = true := by
        rw [conditionMet_iff]
        simp only [met]
        cases st.endKind <;> simp
      have hbelow : below ↔ meetsStage s k st kl.estimate := by
        simp only [below, meetsStage]
        cases st.endKind <;> rfl
      refine ⟨hu, helapsed, heval, hstate.trans hi, hrunning, hset, hnear, hrise, hfall, hdead, hlive, htime,
        fun hk hb => habove hk (hbelow.mp hb), fun hk hb => hunder hk (fun hm => hb (hbelow.mpr hm)), fun j hj => ?_, ?_⟩
      · exact (hothers j hj).trans (modifyKiln_other _ _ hj)
      · intro next
        refine ⟨fun hm hlt => ?_, fun hm hle => ?_, fun hm hlt => ?_, fun hm hle => ⟨fun hlt => ?_, fun hge => ?_⟩⟩
        · rw [hnext (hmet.mp hm) hlt]
        · rw [hlast (hmet.mp hm) hle]
        · rw [hkeep (fun h => hm (hmet.mpr h)) hlt]
        · rw [hover (fun h => hm (hmet.mpr h)) hle hlt]
        · rw [hoverLast (fun h => hm (hmet.mpr h)) hle hge]

end Sys2Proof.Machine
end

section
/-! Unloading, the floor and the press (R94 to R102, R108 to R116). -/

namespace Sys2Proof.Machine

/-! ### Unload completion (R94 to R97) -/

theorem receives_iff {g : Grant} {l : Layer} : receives g l = true ↔ l.state = .receiving ∧ l.number = g.layer := decide_eq_true_iff

/-- The layers after a grant's layer has been filled in, or removed with a mass of 0 (R97). -/
theorem fillLayer_eq (g : Grant) (mass : Nat) (s : State) : fillLayer g mass s =
    setLayers (if mass = 0 then s.cfl.layers.filter (fun l => decide (¬ (l.state = .receiving ∧ l.number = g.layer)))
      else s.cfl.layers.map (fun l => if l.state = .receiving ∧ l.number = g.layer then filledLayer s g mass l else l)) s := by
  unfold fillLayer
  simp only [receives_iff, decide_not]
  rfl

/-- The state of an unload completion once the kiln is EMPTY, before the conveyor command (R96). -/
def unloadEmptied (g : Grant) (s : State) : State :=
  let mass := g.net - netOf s g.kiln
  let cs := (loadOf s g.kiln).contributions
  emptyKiln g.kiln (onUar (fun b => { b with grant := none }) (retireAll (cs.zip (contributionParts mass cs)) (fillLayer g mass s)))

theorem completeUnload_eq (g : Grant) (s : State) :
    completeUnload g s = selectKiln (grantTest (decidePress (postConveyor 0 (unloadEmptied g s)))) := rfl

theorem unloadEmptied_spec (g : Grant) (s : State) :
    let v := unloadEmptied g s
    v.cfl = (fillLayer g (g.net - netOf s g.kiln) s).cfl ∧ v.uar = { s.uar with grant := none } ∧
    v.kfr.loads.get g.kiln = ⟨none, [], 0, false⟩ ∧
    (let kl := s.kilns.get g.kiln
     v.kilns.get g.kiln = ⟨.empty, none, 0, 0, 0, 0, 0, false, ⟨false, false, false⟩, none, none, none, false,
       kl.burnerBound, kl.fanBound, kl.lastBurner, kl.lastFan⟩) ∧
    ∀ j, j ≠ g.kiln → v.kilns.get j = s.kilns.get j ∧ v.kfr.loads.get j = s.kfr.loads.get j := by
  intro v
  let mass := g.net - netOf s g.kiln
  let cs := (loadOf s g.kiln).contributions
  let retired := retireAll (cs.zip (contributionParts mass cs)) (fillLayer g mass s)
  have hretired : Posted (fillLayer g mass s) retired := posted_retireAll _ _
  have hkilns : retired.kilns = s.kilns := hretired.kilns
  have hkfr : retired.kfr = s.kfr := hretired.kfr
  have huar : retired.uar = s.uar := hretired.uar
  obtain ⟨hkiln, hothers, hload, hcfl, hgrant⟩ := emptyKiln_spec g.kiln (onUar (fun b => { b with grant := none }) retired)
  refine ⟨hcfl.trans hretired.cfl, ?_, ?_, ?_, fun j hj => ⟨?_, ?_⟩⟩
  · rw [show v.uar = _ from hgrant, uar_onUar, huar]
  · rw [show v.kfr = _ from hload]
    exact Tab.get_set_self _ _ _
  · rw [show v.kilns.get g.kiln = _ from hkiln, kilns_onUar, hkilns]
    rfl
  · rw [show v.kilns.get j = _ from hothers j hj, kilns_onUar, hkilns]
  · rw [show v.kfr = _ from hload, kfr_onUar, hkfr]
    exact Tab.get_set_ne _ _ (Ne.symm hj)

/-- The lot shares of parts: those of lots with a part above 0, in order (R97). -/
theorem lotShares_eq (ps : List (Contribution × Nat)) : lotShares ps =
    (ps.filter (fun p => decide (p.1.slot ≠ none ∧ 0 < p.2))).map (fun p => ⟨p.1.slot, p.1.lotNumber, p.2⟩) := by
  induction ps with
  | nil => rfl
  | cons p ps ih =>
    obtain ⟨c, n⟩ := p
    have hkept : (c.slot.isSome && decide (0 < n)) = decide (c.slot ≠ none ∧ 0 < n) := by
      rw [Bool.decide_and, Bool.eq_iff_iff, Bool.and_eq_true, Bool.and_eq_true, Option.isSome_iff_ne_none, decide_eq_true_eq,
        decide_eq_true_eq]
    rw [lotShares, ih, List.filter_cons, hkept]
    split <;> rfl

/-- The parts are those of the split, or all 0 when the dry sums to 0 (R97, R155). -/
theorem contributionParts_cases (mass : Nat) (cs : List Contribution) :
    split mass (cs.map (·.dry)) = some (contributionParts mass cs) ∨
      ((cs.map (·.dry)).sum = 0 ∧ contributionParts mass cs = cs.map (fun _ => 0)) := by
  by_cases h : (cs.map (·.dry)).sum = 0
  · exact .inr ⟨h, by rw [contributionParts, split_eq_none h]; rfl⟩
  · exact .inl (by rw [contributionParts, split_eq_some h]; rfl)

theorem layerShares_eq (mass : Nat) (cs : List Contribution) :
    let lots := (cs.zip (contributionParts mass cs)).filter (fun p => decide (p.1.slot ≠ none ∧ 0 < p.2))
    layerShares mass cs = lots.map (fun p => ⟨p.1.slot, p.1.lotNumber, p.2⟩) ++
      if mass - (lots.map (·.2)).sum = 0 then [] else [⟨none, 0, mass - (lots.map (·.2)).sum⟩] := by
  intro lots
  simp only [layerShares, lotShares_eq, List.map_map]
  rfl

theorem settleDue_of {s : State} {g : Grant} {d : Time} (hgrant : s.uar.grant = some g) (hsettle : g.settle = some d)
    (hreached : reached d s.clock = true) : settleDue s = true := by
  simp only [settleDue, hgrant, hsettle, due]
  exact hreached

theorem withGrant_some {s : State} {g : Grant} (h : s.uar.grant = some g) (act : Grant → State → State) :
    withGrant act s = act g s := by
  simp only [withGrant, h]

/-- Settles O48: the mark and the deadline come to `completeUnload`, whose stages have the lemmas above. -/
theorem unloadCompletes : Obligations.UnloadCompletes := by
  refine ⟨⟨fun f s hmark hof => ⟨fun hnone => ?noGrant, fun g hgrant => ⟨fun hother => ?other, fun hkiln => ?granted⟩⟩,
    fun s g d hgrant hsettle hreached => ?deadline⟩, fun g s => ?complete, fun g mass l s => rfl, fun mass cs => ?shares⟩
  case noGrant =>
    refine (mark_taken hmark hof _).trans ?_
    have hnone' : (taken s).uar.grant = none := hnone
    rw [takeUnloadDone, hnone']
  case other =>
    refine (mark_taken hmark hof _).trans ?_
    have hgrant' : (taken s).uar.grant = some g := hgrant
    simp only [takeUnloadDone, hgrant', if_neg (Ne.symm hother)]
  case granted =>
    refine (mark_taken hmark hof _).trans ?_
    have hgrant' : (taken s).uar.grant = some g := hgrant
    simp only [takeUnloadDone, hgrant', if_pos hkiln.symm]
  case deadline =>
    refine (atDeadline_reached (settleDue_of hgrant hsettle hreached) (withGrant completeUnload) s).trans ?_
    rw [withGrant_some hgrant]
  case complete =>
    intro mass cs receiver
    refine ⟨_, unloadEmptied g s, fillLayer_eq g mass s ▸ rfl, ?_, completeUnload_eq g s, unloadEmptied_spec g s⟩
    rfl
  case shares =>
    exact ⟨contributionParts_cases mass cs, layerShares_sum mass cs, _, _, rfl, rfl, layerShares_eq mass cs⟩

/-! ### Rest due times and the floor clear (R100, R102) -/

theorem restReached_iff {now : Time} {n : Nat} {l : Layer} : restReached now n l = true ↔
    l.number = n ∧ l.state = .resting ∧ ∃ d, l.restDue = some d ∧ reached d now = true := by
  rw [restReached, Bool.and_eq_true, decide_eq_true_eq, and_assoc]
  refine and_congr_right fun _ => and_congr_right fun _ => ?_
  cases l.restDue <;> simp [due]

/-- What the sweep of one layer leaves: the other layers, and every kiln, load and request (R102). -/
theorem sweepLayer_spec (l : Layer) (s : State) :
    (sweepLayer l s).cfl = { s.cfl with
      layers := s.cfl.layers.filter (fun m => !(decide (m.number = l.number) && swept m)) } ∧
    (sweepLayer l s).kilns = s.kilns ∧ (sweepLayer l s).kfr = s.kfr ∧ (sweepLayer l s).uar = s.uar := by
  have hposted : Posted s (l.shares.foldl (fun s sh => if 0 < sh.grams then updateSlot sh.slot (sweep sh.grams) s else s) s) :=
    posted_foldl (fun s (sh : Share) => if 0 < sh.grams then updateSlot sh.slot (sweep sh.grams) s else s) (fun s sh => by
      split
      · exact posted_updateSlot _ _ s
      · exact .refl s) l.shares s
  unfold sweepLayer
  refine ⟨?_, hposted.kilns, hposted.kfr, hposted.uar⟩
  simp only [setLayers, cfl_onCfl, hposted.cfl]

/-- The sweep of some layers takes their numbers' swept layers from the list. -/
theorem sweepLayers_spec (ls : List Layer) : ∀ s : State,
    let u := ls.foldl (fun t l => sweepLayer l t) s
    u.cfl = { s.cfl with
      layers := s.cfl.layers.filter (fun m => !(swept m && ls.any (fun l => decide (m.number = l.number)))) } ∧
    u.kilns = s.kilns ∧ u.kfr = s.kfr ∧ u.uar = s.uar := by
  induction ls with
  | nil =>
    intro s
    refine ⟨?_, rfl, rfl, rfl⟩
    simp
  | cons l ls ih =>
    intro s
    obtain ⟨hcfl, hkilns, hkfr, huar⟩ := ih (sweepLayer l s)
    obtain ⟨hcfl1, hkilns1, hkfr1, huar1⟩ := sweepLayer_spec l s
    refine ⟨?_, hkilns.trans hkilns1, hkfr.trans hkfr1, huar.trans huar1⟩
    rw [List.foldl_cons, hcfl, hcfl1]
    simp only [List.filter_filter, List.any_cons, Bool.and_or_distrib_left, Bool.not_or]
    refine congrArg (fun x => ({ s.cfl with layers := x } : Cfl)) (List.filter_congr fun m _ => ?_)
    rw [Bool.and_comm, Bool.and_comm (swept m) (decide (m.number = l.number))]

/-- The sweep of every layer that does not receive leaves those that do (R102). -/
theorem sweepFloor_spec (s : State) :
    let u := (s.cfl.layers.filter (fun l => decide (l.state ≠ .receiving))).foldl (fun t l => sweepLayer l t) s
    u.cfl = { s.cfl with layers := s.cfl.layers.filter (fun l => decide (l.state = .receiving)) } ∧
    u.kilns = s.kilns ∧ u.kfr = s.kfr ∧ u.uar = s.uar := by
  obtain ⟨hcfl, hrest⟩ := sweepLayers_spec (s.cfl.layers.filter (fun l => decide (l.state ≠ .receiving))) s
  refine ⟨hcfl.trans ?_, hrest⟩
  refine congrArg (fun x => ({ s.cfl with layers := x } : Cfl)) (List.filter_congr fun m hm => ?_)
  by_cases h : m.state = .receiving
  · simp [swept, h]
  · have hany : (s.cfl.layers.filter (fun l => decide (l.state ≠ .receiving))).any (fun l => decide (m.number = l.number)) = true :=
      List.any_eq_true.mpr ⟨m, List.mem_filter.mpr ⟨hm, decide_eq_true h⟩, decide_eq_true rfl⟩
    rw [hany]
    simp [swept, h]

/-- Settles O49: the layer gone READY, the floor swept, and the press back at IDLE. -/
theorem floorAndPressRequests : Obligations.FloorAndPressRequests := by
  refine ⟨fun n s => ?rest, fun f s hworks hc => ⟨fun hstate => weighmaster_exec hworks hc _ (if_neg hstate), fun hstate => ?clear⟩,
    fun f s hworks hc => ⟨fun hstate => job_exec hworks hc _ (if_neg ?_), fun hstate => job_exec hworks hc _ (if_pos hstate)⟩⟩
  case rest =>
    intro ripe hripe
    obtain ⟨l, hl, hlripe⟩ := hripe
    have hany : s.cfl.layers.any (restReached s.clock n) = true := List.any_eq_true.mpr ⟨l, hl, restReached_iff.mpr hlripe⟩
    refine ⟨s.cfl.layers.map (fun l => if restReached s.clock n l then readied l else l), ?_, List.length_map .., fun i m hm =>
      ⟨fun hr => ?_, fun hr => ?_⟩⟩
    · refine (atDeadline_reached hany (layerRest n) s).trans ?_
      rw [layerRest, if_pos hany]
      rfl
    · rw [List.getElem?_map, hm, Option.map_some, if_pos (restReached_iff.mpr hr)]
      rfl
    · rw [List.getElem?_map, hm, Option.map_some, if_neg (fun h => hr (restReached_iff.mp h))]
  case clear =>
    intro gone u
    exact ⟨weighmaster_exec hworks hc _ (if_pos hstate), sweepFloor_spec (asked s)⟩
  rcases hstate with h | h <;> rw [show (asked s).pru.state = _ from h] <;> decide

/-! ### The bale close (R110 to R116) -/

theorem pressDue_of {s : State} {d : Time} (hstate : s.pru.state = .weighing) (hsettle : s.pru.settle = some d)
    (hreached : reached d s.clock = true) : pressDue s = true := by
  rw [pressDue, hsettle, decide_eq_true hstate]
  exact hreached

/-- The bale's moisture over the draws and the excess, which make up its net (R159). -/
theorem baleMoisture_net {d1 d2 net : Nat} (h : d1 + d2 ≤ net) (m1 m2 reference : Nat) :
    baleMoisture d1 m1 d2 m2 (net - d1 - d2) reference = if d1 = 0 ∧ d2 = 0 then reference else
      roundHalfUp (d1 * m1 + d2 * m2 + (net - d1 - d2) * (if 0 < d2 then m2 else m1)) net := by
  have hsum : d1 + d2 + (net - d1 - d2) = net := by omega
  rw [baleMoisture, hsum]

theorem appendBale_room {log : List BaleRecord} (h : log.length < 96) (b : BaleRecord) : appendBale b log = log ++ [b] := by
  rw [appendBale, if_neg (not_le.mpr h)]

theorem appendBale_full {log : List BaleRecord} (h : 96 ≤ log.length) (b : BaleRecord) :
    appendBale b log = log.tail ++ [b] := by
  rw [appendBale, if_pos h, List.drop_one]

theorem draws_notReady {b : Nat} {l : Layer} (h : l.state ≠ .ready) (rest : List Layer) : draws b (l :: rest) = (0, 0) := by
  cases rest with
  | nil => rw [draws, if_neg h]
  | cons m rest => rw [draws, if_neg h]

theorem draws_head {b : Nat} {l : Layer} (h : l.state = .ready) (hle : b ≤ l.remaining) (rest : List Layer) :
    draws b (l :: rest) = (b, 0) := by
  cases rest with
  | nil => rw [draws, if_pos h, Nat.min_eq_left hle]
  | cons m rest => rw [draws, if_pos h, if_neg (by omega), Nat.min_eq_left hle]

theorem draws_single {b : Nat} {l : Layer} (h : l.state = .ready) (hlt : l.remaining < b) : draws b [l] = (l.remaining, 0) := by
  rw [draws, if_pos h, Nat.min_eq_right hlt.le]

theorem draws_two {b : Nat} {l m : Layer} (h : l.state = .ready) (hlt : l.remaining < b) (rest : List Layer) :
    draws b (l :: m :: rest) = (l.remaining, if m.state = .ready then min (b - l.remaining) m.remaining else 0) := by
  rw [draws, if_pos h]
  by_cases hm : m.state = .ready
  · rw [if_pos ⟨hlt, hm⟩, if_pos hm]
  · rw [if_neg (fun hboth => hm hboth.2), if_neg hm, Nat.min_eq_right hlt.le]

/-- Settles O50: the close at the deadline, the record's fields, the log of 96, and the draws by the two head layers. -/
theorem baleCloseAtTheSettleDeadline : Obligations.BaleCloseAtTheSettleDeadline := by
  refine ⟨fun s d hstate hsettle hreached => ?deadline, fun gross unsettled s => ?record, fun b l m rest =>
    ⟨rfl, fun h => draws_notReady h rest, fun h hle => draws_head h hle rest, draws_single, fun h hlt hm => ?_, fun h hlt hm => ?_⟩⟩
  case deadline =>
    have hexec : exec .pressSettleDeadline s = .next (startPortB (pressSettle s)) :=
      atDeadline_reached (pressDue_of hstate hsettle hreached) pressSettle s
    rw [hexec]
    refine ⟨fun hlive => ?_, fun hlive => ?_⟩
    · rw [pressSettle, if_neg (by rw [hlive]; decide)]
    · rw [pressSettle, if_pos hlive]
  case record =>
    intro b c d
    have hsum : d.1 + d.2 ≤ b.net := draws_sum_le b.net s.cfl.layers
    refine ⟨rfl, rfl, rfl, rfl, decide_eq_true_iff, decide_eq_true_iff, rfl, decide_eq_true_iff.trans ?_,
      baleMoisture_net hsum _ _ _, fun l hl => ?_, fun l hl => ?_, ?_⟩
    · show 0 < b.net - d.1 - d.2 ↔ _
      omega
    · rw [moistureAt, ← List.head?_eq_getElem?, hl]; rfl
    · rw [moistureAt, hl]; rfl
    · exact ⟨rfl, fun h => appendBale_room h b, fun h => appendBale_full h b⟩
  · rw [draws_two h hlt, if_neg hm]
  · rw [draws_two h hlt, if_pos hm]

end Sys2Proof.Machine
end

section
/-! The ticket requests (R143 to R146), the press permit (R120, R121) and the unload grant (R89 to R93, R99). -/

namespace Sys2Proof.Machine

/-! ### Ticket requests (R143 to R146) -/

theorem addCredits_add {f : Frame} {s : State} (h : arg f 0 1 = 0) :
    addCredits f s = (sendTests (setCredits (min 255 (s.tku.credits + arg f 1 1)) s),
      done [BitVec.ofNat 8 (min 255 (s.tku.credits + arg f 1 1))]) := by
  rw [addCredits, if_pos h]
  simp only [beBytes_one]

theorem addCredits_noMode {f : Frame} {s : State} (h : arg f 0 1 ≠ 0) : addCredits f s = (s, refusal .outOfRange) := if_neg h

theorem setCreditsRequest_zero {f : Frame} {s : State} (h : arg f 1 1 = 0) :
    setCreditsRequest f s = (sendTests (withdraw (setCredits 0 s)), done [0]) := by
  rw [setCreditsRequest, if_pos h, h, beBytes_one]
  rfl

theorem setCreditsRequest_some {f : Frame} {s : State} (h : arg f 1 1 ≠ 0) :
    setCreditsRequest f s = (sendTests (setCredits (arg f 1 1) s), done [BitVec.ofNat 8 (arg f 1 1)]) := by
  rw [setCreditsRequest, if_neg h, beBytes_one]

theorem rewindTickets_eq (s : State) : rewindTickets s =
    (sendTests (withdraw (onTku (fun b => { b with queue := b.queue.map rewound }) s)),
      done [BitVec.ofNat 8 (s.tku.queue.filter (fun t => decide (t.state ≠ .sendable))).length]) := by
  rw [rewindTickets, beBytes_one]

theorem find?_first {α : Type} {p : α → Bool} {l r : List α} {x : α} (hx : p x = true) (hl : ∀ y ∈ l, p y = false) :
    (l ++ x :: r).find? p = some x := by
  rw [List.find?_append, List.find?_eq_none.mpr (fun y hy => by rw [hl y hy]; decide), List.find?_cons_of_pos hx]
  rfl

theorem ticketOf_none {s : State} {n : Nat} (h : ∀ t ∈ s.tku.queue, t.serial ≠ n) : ticketOf s n = none :=
  List.find?_eq_none.mpr (fun t ht => by rw [decide_eq_true_eq]; exact h t ht)

theorem ticketOf_first {s : State} {n : Nat} {l r : List Ticket} {t : Ticket} (hqueue : s.tku.queue = l ++ t :: r)
    (ht : t.serial = n) (hl : ∀ x ∈ l, x.serial ≠ n) : ticketOf s n = some t := by
  rw [ticketOf, hqueue]
  exact find?_first (decide_eq_true ht) (fun x hx => decide_eq_false (hl x hx))

/-- A queue without the one ticket of a serial (R145). -/
theorem dropTicket_eq {s : State} {l r : List Ticket} {t : Ticket} (hqueue : s.tku.queue = l ++ t :: r)
    (hl : ∀ x ∈ l, x.serial ≠ t.serial) (hr : ∀ x ∈ r, x.serial ≠ t.serial) :
    dropTicket t.serial s = onTku (fun b => { b with queue := l ++ r }) s := by
  have hfilter : s.tku.queue.filter (fun x => decide (x.serial ≠ t.serial)) = l ++ r := by
    rw [hqueue, List.filter_append, List.filter_cons_of_neg (by simp), List.filter_eq_self.mpr, List.filter_eq_self.mpr]
    · exact fun x hx => decide_eq_true (hr x hx)
    · exact fun x hx => decide_eq_true (hl x hx)
  rw [dropTicket, onTku, onTku, hfilter]

theorem releaseTicket_zero {f : Frame} {s : State} (h : arg f 0 2 = 0) : releaseTicket f s = (s, refusal .outOfRange) := if_pos h

theorem releaseTicket_notFound {f : Frame} {s : State} (h : arg f 0 2 ≠ 0) (hnone : ticketOf s (arg f 0 2) = none) :
    releaseTicket f s = (s, refusal .notFound) := by
  rw [releaseTicket, if_neg h, hnone]

theorem releaseTicket_found {f : Frame} {s : State} {t : Ticket} (h : arg f 0 2 ≠ 0) (ht : ticketOf s (arg f 0 2) = some t) :
    releaseTicket f s = if t.state = .sent then
        (buildTest (dropTicket t.serial s), done [BitVec.ofNat 8 (freeBlocks (dropTicket t.serial s))])
      else (s, refusal .refusedState) := by
  rw [releaseTicket, if_neg h, ht, ← beBytes_one]

/-- A credit request that asks as its mode says. -/
theorem asksCredit_of {f : Frame} (h : asks f 23 = true) (hlen : argsLength f 2 = true) :
    (arg f 0 1 = 1 → asksCreditSet f = true) ∧ (arg f 0 1 ≠ 1 → asksCreditAdd f = true) := by
  have harg : field f.payload 3 1 = arg f 0 1 := by
    rw [arg, args, field, field, List.drop_drop]
  have hlong : 4 ≤ f.payload.length := by
    have := of_decide_eq_true hlen
    rw [args, List.length_drop] at this
    omega
  refine ⟨fun hmode => ?_, fun hmode => ?_⟩
  · rw [asksCreditSet, h, harg, hmode, decide_eq_true ⟨hlong, rfl⟩]
    rfl
  · rw [asksCreditAdd, asksCreditSet, h, harg, decide_eq_false (fun hboth => hmode hboth.2)]
    rfl

theorem credit_exec {s : State} {f : Frame} (h : OperatorWorks s f) (hasks : asks f 23 = true) (hlen : argsLength f 2 = true)
    {b : Bool} (hb : b = true) (owner : State → State × Answer) {a : Answer} {u : State} (ho : owner (asked s) = (u, a)) :
    (.next (takeRequest b f (jobRequest (argsLength f 2) owner) s) : Host.Outcome State Fault Refusal) = .next (answered f a u) := by
  rw [hb, jobRequest_answered h (length_of_asks hasks) hlen, ho]

/-- Settles O51: each ticket request's owner by its arguments and the ticket that it finds. -/
theorem ticketRequests : Obligations.TicketRequests := by
  intro f s tests credits emptied
  refine ⟨fun hworks => ⟨fun hasks hlen => ?credits, fun hc => job_exec hworks hc (fun s => stopTickets s) rfl, fun hc =>
    ⟨fun hrun => ?running, fun hrun => ?stopped⟩, fun hc => job_exec hworks hc _ (rewindTickets_eq (asked s))⟩,
    fun hworks hc => ?release⟩
  case credits =>
    obtain ⟨hset, hadd⟩ := asksCredit_of hasks hlen
    refine ⟨fun hmode => ?_, fun hmode => ?_, fun hmode hzero => ?_, fun hmode hsome => ?_⟩
    · exact credit_exec hworks hasks hlen (hadd (by omega)) (addCredits f) (addCredits_add hmode)
    · exact credit_exec hworks hasks hlen (hadd (by omega)) (addCredits f) (addCredits_noMode (by omega))
    · exact credit_exec hworks hasks hlen (hset hmode) (setCreditsRequest f) (setCreditsRequest_zero hzero)
    · exact credit_exec hworks hasks hlen (hset hmode) (setCreditsRequest f) (setCreditsRequest_some hsome)
  case running =>
    have hrun' : (asked s).tku.run = true := hrun
    exact job_exec hworks hc (fun s => runTickets s) (by rw [runTickets, if_pos hrun'])
  case stopped =>
    have hrun' : ¬ (asked s).tku.run = true := by rw [show (asked s).tku.run = _ from hrun]; decide
    exact job_exec hworks hc (fun s => runTickets s) (by rw [runTickets, if_neg hrun']; rfl)
  case release =>
    refine ⟨fun hzero => weighmaster_exec hworks hc _ (releaseTicket_zero hzero), fun hne hnone =>
      weighmaster_exec hworks hc _ (releaseTicket_notFound hne (ticketOf_none (s := asked s) hnone)),
      fun l t r hne hqueue hserial hl => ?_⟩
    have howner := releaseTicket_found hne (ticketOf_first (s := asked s) hqueue hserial hl)
    refine ⟨fun hstate => weighmaster_exec hworks hc _ (howner.trans (if_neg hstate)), fun hstate hr => ?_⟩
    rw [if_pos hstate, dropTicket_eq (s := asked s) hqueue (fun x hx => hserial ▸ hl x hx) (fun x hx => hserial ▸ hr x hx)] at howner
    exact weighmaster_exec hworks hc _ howner

end Sys2Proof.Machine
end

section
/-! The press permit (R120, R121) and the unload grant (R89 to R93, R99). -/

namespace Sys2Proof.Machine

/-! ### The press permit (R120, R121) -/

theorem horizonLayers_nil {s : State} (h : s.cfl.layers = []) : horizonLayers s = [] := by
  rw [horizonLayers, h]

theorem horizonLayers_headNotReady {s : State} {l : Layer} {rest : List Layer} (h : s.cfl.layers = l :: rest)
    (hl : l.state ≠ .ready) : horizonLayers s = [] := by
  rw [horizonLayers, h]
  cases rest with
  | nil => exact if_neg hl
  | cons m more => exact if_neg hl

theorem horizonLayers_one {s : State} {l : Layer} {rest : List Layer} (h : s.cfl.layers = l :: rest) (hl : l.state = .ready)
    (hrest : ∀ m ∈ rest.head?, m.state ≠ .ready) : horizonLayers s = [l] := by
  rw [horizonLayers, h]
  cases rest with
  | nil => exact if_pos hl
  | cons m more => exact (if_pos hl).trans (if_neg (hrest m rfl))

theorem horizonLayers_two {s : State} {l m : Layer} {more : List Layer} (h : s.cfl.layers = l :: m :: more)
    (hl : l.state = .ready) (hm : m.state = .ready) : horizonLayers s = [l, m] := by
  rw [horizonLayers, h]
  exact (if_pos hl).trans (if_pos hm)

theorem shareRefsFull_iff {s : State} {sh : Share} : shareRefsFull s sh = true ↔
    0 < sh.grams ∧ ∃ i l, sh.slot = some i ∧ lotAt s i = some l ∧ l.flags.refsFull = true := by
  rw [shareRefsFull, Bool.and_eq_true, decide_eq_true_eq]
  refine and_congr_right fun _ => ?_
  cases hslot : sh.slot with
  | none => simp
  | some i =>
    cases hlot : lotAt s i with
    | none => simp [hlot]
    | some l => simp [hlot]

theorem refsFullShare_isSome {s : State} : (refsFullShare s).isSome = true ↔
    ∃ sh ∈ (horizonLayers s).flatMap (·.shares), shareRefsFull s sh = true := by
  rw [refsFullShare, List.find?_isSome]

theorem configLive_iff {s : State} {c : Nat} : configLive s c = true ↔ s.mgu.configValid = true ∧ isLive s c = true := by
  rw [configLive, Bool.and_eq_true]

theorem pressDecision_notStarted {s : State} (h : started s = false) : pressDecision s = (.hold, some .notStarted) := by
  rw [pressDecision, h]
  rfl

section
variable {s : State} (hstarted : started s = true)
include hstarted

theorem pressDecision_cycle (h : s.pru.state = .pressing ∨ s.pru.state = .weighing) :
    pressDecision s = (.hold, some .cycle) := by
  rw [pressDecision, hstarted]
  obtain h | h := h <;> rw [h] <;> rfl

theorem pressDecision_refsFull (h : s.pru.state = .idle ∨ s.pru.state = .charging) (hfull : (refsFullShare s).isSome = true) :
    pressDecision s = (.hold, some .refsFull) := by
  rw [pressDecision, hstarted]
  obtain h | h := h <;> rw [h] <;> exact if_pos hfull

theorem pressDecision_idle (h : s.pru.state = .idle) (hfull : ¬ (refsFullShare s).isSome = true) :
    pressDecision s = if horizon s = 0 then (.hold, some .noHorizon)
      else if s.mgu.config.baleTarget ≤ horizon s then (.go, none) else (.slow, none) := by
  rw [pressDecision, hstarted, h]
  exact if_neg hfull

theorem pressDecision_charging (h : s.pru.state = .charging) (hfull : ¬ (refsFullShare s).isSome = true) :
    pressDecision s = if !configLive s s.mgu.config.pressCharge then (.hold, some .chargeChannel)
      else if chargeLimit s ≤ chargeOf s then (.hold, some .chargeLimit)
      else if chargeLimit s - chargeOf s < s.mgu.config.pressSlowBand then (.slow, none) else (.go, none) := by
  rw [pressDecision, hstarted, h]
  exact if_neg hfull

end

theorem decidePress_stored {s : State} (h : (pressDecision s).1 ≠ .hold ∨ s.pru.permit = .hold) :
    decidePress s = onPru (fun p => { p with permit := (pressDecision s).1, cause := (pressDecision s).2 }) s := by
  rw [decidePress]
  by_cases hd : (pressDecision s).1 = .hold
  · exact (if_pos hd).trans (if_pos (h.resolve_left (fun hn => hn hd)))
  · exact if_neg hd

theorem decidePress_entersHold {s : State} (hd : (pressDecision s).1 = .hold) (hp : s.pru.permit ≠ .hold) :
    decidePress s = postEvent .pressHold (pressHoldContext (pressDecision s).2 s)
      (onPru (fun p => { p with permit := (pressDecision s).1, cause := (pressDecision s).2 }) s) := by
  rw [decidePress]
  exact (if_pos hd).trans (if_neg hp)

/-- Settles O52: each row of the table of R120, and the occurrence of R121. -/
theorem pressPermitByItsTable : Obligations.PressPermitByItsTable := by
  intro s full shares c limit charge live
  have hfull (sh : Share) : shareRefsFull s sh = true ↔ full sh := shareRefsFull_iff
  have hnone : (∀ sh ∈ shares, ¬ full sh) → ¬ (refsFullShare s).isSome = true := fun h hsome => by
    obtain ⟨sh, hmem, hsh⟩ := refsFullShare_isSome.mp hsome
    exact h sh hmem ((hfull sh).mp hsh)
  refine ⟨horizonLayers_nil, fun l rest h => ⟨horizonLayers_headNotReady h, horizonLayers_one h, fun m more hl hrest hm =>
    horizonLayers_two (hrest ▸ h) hl hm⟩, rfl, pressDecision_notStarted, fun hs => ⟨pressDecision_cycle hs, fun h hex => ?refs,
    fun h hall => ?idle, fun h hall => ?charging⟩, decidePress_stored, fun hd hp => ⟨fun hcause => ?other, ?named⟩⟩
  case refs =>
    obtain ⟨sh, hmem, hsh⟩ := hex
    exact pressDecision_refsFull hs h (refsFullShare_isSome.mpr ⟨sh, hmem, (hfull sh).mpr hsh⟩)
  case idle =>
    rw [pressDecision_idle hs h (hnone hall)]
    exact ⟨fun hz => if_pos hz, fun hz ht => (if_neg hz).trans (if_pos ht), fun hz ht => (if_neg hz).trans (if_neg (Nat.not_le.mpr ht))⟩
  case charging =>
    rw [pressDecision_charging hs h (hnone hall)]
    have hdead : live → ¬ (!configLive s s.mgu.config.pressCharge) = true := fun hl => by rw [configLive_iff.mpr hl]; decide
    refine ⟨fun hl => if_pos ?_, fun hl hlimit => (if_neg (hdead hl)).trans (if_pos hlimit), fun hl hlimit hband =>
      (if_neg (hdead hl)).trans ((if_neg (Nat.not_le.mpr hlimit)).trans (if_pos hband)), fun hl hlimit hband =>
      (if_neg (hdead hl)).trans ((if_neg (Nat.not_le.mpr hlimit)).trans (if_neg (Nat.not_lt.mpr hband)))⟩
    rw [Bool.not_eq_true', Bool.eq_false_iff]
    exact fun hc => hl (configLive_iff.mp hc)
  case other => rw [decidePress_entersHold hd hp, pressHoldContext, if_neg hcause]
  case named =>
    intro before sh behind hcause hsplit hsh hbefore
    have hfirst : refsFullShare s = some sh := by
      rw [refsFullShare, show (horizonLayers s).flatMap (·.shares) = _ from hsplit]
      exact find?_first ((hfull sh).mpr hsh) (fun x hx => Bool.eq_false_iff.mpr (fun hxs => hbefore x hx ((hfull x).mp hxs)))
    rw [decidePress_entersHold hd hp, pressHoldContext, if_pos hcause, hfirst]
    rfl

/-! ### The unload grant (R89 to R93, R99) -/

theorem decidePress_link (s : State) :
    LinkOnly (onPru (fun p => { p with permit := (pressDecision s).1, cause := (pressDecision s).2 }) s) (decidePress s) := by
  by_cases h : (pressDecision s).1 ≠ .hold ∨ s.pru.permit = .hold
  · rw [decidePress_stored h]
    exact .refl _
  · obtain ⟨hd, hp⟩ := not_or.mp h
    rw [decidePress_entersHold (not_not.mp hd) hp]
    exact linkOnly_postEvent _ _ _

theorem firstFree_of_not_mem {top n : Nat} {held : List Nat} (h : n ∉ held) (fuel : Nat) : firstFree top held fuel n = n := by
  cases fuel with
  | zero => rfl
  | succ fuel => exact if_neg h

theorem canGrant_iff {s : State} {k : Fin 4} : canGrant s k = true ↔
    s.uar.grant = none ∧ s.cfl.layers.length < 16 ∧ floorBook s + netOf s k ≤ s.mgu.config.floorCapacity := by
  rw [canGrant, Bool.and_eq_true, Bool.and_eq_true, Option.isNone_iff_eq_none, decide_eq_true_eq, decide_eq_true_eq, and_assoc]

theorem grantTest_nil {s : State} (h : s.uar.requests = []) : grantTest s = s := by
  rw [grantTest, h]

theorem grantTest_cons {s : State} {k : Fin 4} {rest : List (Fin 4)} (h : s.uar.requests = k :: rest) :
    grantTest s = if canGrant s k then grantKiln k rest s else s := by
  rw [grantTest, h]

/-- The grant record and the RECEIVING layer of a grant, before the permits and the kiln move (R90, R99). -/
def grantListed (k : Fin 4) (rest : List (Fin 4)) (s : State) : State :=
  onCfl (fun c => ⟨c.layers ++ [receivingLayer s k], nextInSequence 255 (nextLayerNumber s)⟩)
    (onUar (fun _ => ⟨rest, some (grantFor s k)⟩) s)

/-- A grant but for its conveyor command (R92). -/
def granted (k : Fin 4) (rest : List (Fin 4)) (s : State) : State :=
  moveKiln k .unloading
    (modifyKiln k (fun kl => { kl with evalDeadline := none, overdry := none }) (decidePress (grantListed k rest s)))

theorem grantKiln_eq (k : Fin 4) (rest : List (Fin 4)) (s : State) :
    grantKiln k rest s = postConveyor 1000 (granted k rest s) := rfl

section
variable (k : Fin 4) (rest : List (Fin 4)) (s : State)

theorem granted_kilnsOnly : KilnsOnly (decidePress (grantListed k rest s)) (granted k rest s) :=
  (kilnsOnly_modifyKiln k _ _).trans (kilnsOnly_moveKiln k _ _)

theorem granted_kilns : (granted k rest s).kilns.get k =
      { s.kilns.get k with state := .unloading, evalDeadline := none, overdry := none } ∧
    ∀ j, j ≠ k → (granted k rest s).kilns.get j = s.kilns.get j := by
  have hkilns : (decidePress (grantListed k rest s)).kilns = s.kilns := (posted_decidePress _).kilns
  refine ⟨?_, fun j hj => ?_⟩
  · rw [granted, moveKiln_self, modifyKiln_self, hkilns]
  · rw [granted, moveKiln_other _ _ hj, modifyKiln_other _ _ hj, hkilns]

theorem granted_uar : (granted k rest s).uar = ⟨rest, some (grantFor s k)⟩ :=
  (granted_kilnsOnly k rest s).uar.trans (posted_decidePress _).uar

theorem granted_cfl : (granted k rest s).cfl =
    ⟨s.cfl.layers ++ [receivingLayer s k], nextInSequence 255 (nextLayerNumber s)⟩ :=
  (granted_kilnsOnly k rest s).cfl.trans (posted_decidePress _).cfl

theorem granted_kfr : (granted k rest s).kfr = s.kfr := (granted_kilnsOnly k rest s).kfr.trans (posted_decidePress _).kfr

theorem granted_channels : (granted k rest s).channels = s.channels :=
  (granted_kilnsOnly k rest s).tables.1.trans (posted_decidePress _).channels

theorem granted_lots : (granted k rest s).itk.lots = s.itk.lots := by
  have hitk : (decidePress (grantListed k rest s)).itk = s.itk := (decidePress_link _).1.1
  rw [(granted_kilnsOnly k rest s).itk, hitk]

theorem granted_pru : (granted k rest s).pru.state = s.pru.state ∧ (granted k rest s).pru.log = s.pru.log := by
  rw [(granted_kilnsOnly k rest s).pru, (posted_decidePress _).pru]
  exact ⟨rfl, rfl⟩

theorem granted_floorBook : floorBook (granted k rest s) = sat64 ((s.cfl.layers.map bookMass).sum + netOf s k) := by
  have hnew : bookMass (receivingLayer s k) = netOf s k := rfl
  rw [floorBook, granted_cfl, List.map_append, List.sum_append, List.map_singleton, List.sum_singleton, hnew]

end

theorem actuatorFor_none {s : State} {f : ActuatorFunction}
    (h : ∀ a ∈ s.actuators.cells, a.valid = true → a.function ≠ f) : actuatorFor s f = none :=
  List.find?_eq_none.mpr (fun a ha hp => by
    rw [Bool.and_eq_true, decide_eq_true_eq] at hp
    exact h a ha hp.1 hp.2)

theorem actuatorFor_first {s : State} {f : ActuatorFunction} {l r : List Actuator} {a : Actuator}
    (hsplit : s.actuators.cells = l ++ a :: r) (hvalid : a.valid = true) (hf : a.function = f)
    (hl : ∀ x ∈ l, x.valid = true → x.function ≠ f) : actuatorFor s f = some a := by
  rw [actuatorFor, hsplit]
  refine find?_first (by rw [hvalid, hf]; simp) (fun x hx => Bool.eq_false_iff.mpr (fun hp => ?_))
  rw [Bool.and_eq_true, decide_eq_true_eq] at hp
  exact hl x hx hp.1 hp.2

theorem postConveyor_none {s : State} (h : actuatorFor s .unloadConveyor = none) (v : Nat) : postConveyor v s = s := by
  rw [postConveyor, h]

theorem postConveyor_some {s : State} {a : Actuator} (h : actuatorFor s .unloadConveyor = some a) (v : Nat) :
    postConveyor v s = postCommand ⟨a.node, a.number, v⟩ s := by
  rw [postConveyor, h]

/-- Settles O53: the head's grant by the conditions of R91, and the state that the grant leaves. -/
theorem unloadGrantToTheHeadKiln : Obligations.UnloadGrantToTheHeadKiln := by
  refine ⟨fun s => ⟨grantTest_nil, fun k rest h => ?head⟩, fun v s => ⟨fun h => postConveyor_none h v, fun a h =>
    postConveyor_some h v⟩, fun f s => ⟨actuatorFor_none, fun l a r => actuatorFor_first⟩⟩
  case head =>
    intro net kl numbers
    rw [grantTest_cons h]
    refine ⟨fun hno => if_neg (fun hc => ?_), fun hgrant hlen hroom => ?_⟩
    · obtain ⟨hgrant, hlen, hroom⟩ := canGrant_iff.mp hc
      obtain hno | hno | hno := hno
      · exact hno hgrant
      · omega
      · exact absurd hroom (Nat.not_le.mpr hno)
    · have hbook := granted_floorBook k rest s
      refine ⟨nextLayerNumber s, granted k rest s, if_pos (canGrant_iff.mpr ⟨hgrant, hlen, hroom⟩),
        nextLayerNumber_not_mem (by omega), fun hfree => firstFree_of_not_mem hfree _, granted_uar k rest s,
        granted_cfl k rest s, (granted_kilns k rest s).1, (granted_kilns k rest s).2, granted_kfr k rest s, granted_lots k rest s,
        (granted_pru k rest s).1, (granted_pru k rest s).2, granted_channels k rest s, ?_, fun hsmall => ?_⟩
      · refine Nat.le_trans ?_ hroom
        show floorBook (granted k rest s) ≤ sat64 _ + netOf s k
        rw [hbook, sat64, sat64]
        omega
      · have hsmall' : sat64 (s.cfl.layers.map bookMass).sum + netOf s k < 2 ^ 64 := hsmall
        show floorBook (granted k rest s) = sat64 _ + netOf s k
        rw [hbook]
        rw [sat64] at hsmall' ⊢
        rw [sat64]
        omega

end Sys2Proof.Machine
end

section
/-! The commands and holds of a kiln (R69, R74, R80), and the filling of a kiln up to its entry into LOADED (R50 to R54). -/

namespace Sys2Proof.Machine

/-! ### Holds, commands and the load check (R69, R74, R80) -/

/-- A DRYING kiln in HELD with a cause, before the commands of HELD (R77 to R79). -/
def heldWith (k : Fin 4) (i : Nat) (cause : HoldCauses) (s : State) : State :=
  modifyKiln k (fun kl => { kl with causes := cause, debounce := 0 }) (moveKiln k (.held i) s)

theorem holdKiln_drying_eq {k : Fin 4} {s : State} {i : Nat} (h : (s.kilns.get k).state = .drying i) (cause : HoldCauses) :
    holdKiln k cause s = postEvent .kilnHeld (kilnContext k) (postHeld k i (heldWith k i cause s)) := by
  simp only [holdKiln, h]
  rfl

theorem holdKiln_notRunning {k : Fin 4} {s : State} (hd : ∀ i, (s.kilns.get k).state ≠ .drying i)
    (hh : ∀ i, (s.kilns.get k).state ≠ .held i) (cause : HoldCauses) : holdKiln k cause s = s := by
  unfold holdKiln
  split
  · rename_i i hi
    exact absurd hi (hd i)
  · rename_i i hi
    exact absurd hi (hh i)
  · rfl

theorem heldWith_kilnsOnly (k : Fin 4) (i : Nat) (cause : HoldCauses) (s : State) : KilnsOnly s (heldWith k i cause s) :=
  (kilnsOnly_moveKiln k _ s).trans (kilnsOnly_modifyKiln k _ _)

theorem heldWith_kilns (k : Fin 4) (i : Nat) (cause : HoldCauses) (s : State) :
    (heldWith k i cause s).kilns.get k = { s.kilns.get k with state := .held i, causes := cause, debounce := 0 } ∧
    ∀ j, j ≠ k → (heldWith k i cause s).kilns.get j = s.kilns.get j := by
  refine ⟨?_, fun j hj => ?_⟩
  · rw [heldWith, modifyKiln_self, moveKiln_self]
  · rw [heldWith, modifyKiln_other _ _ hj, moveKiln_other _ _ hj]

theorem bound_iff {s : State} {k : Fin 4} {i : Nat} {f : ActuatorFunction} : bound s k i f = true ↔
    (s.actuators.getD i Actuator.powerOn).valid = true ∧ (s.actuators.getD i Actuator.powerOn).function = f ∧
      (s.actuators.getD i Actuator.powerOn).kiln = k := by
  rw [bound, Bool.and_eq_true, decide_eq_true_eq]

theorem stageAt_running {kl : Kiln} {r : Running} {i : Nat} {st : Stage} (hr : kl.running = some r)
    (hst : r.copy.stages[i - 1]? = some st) : stageAt kl i = st := by
  rw [stageAt, hr]
  show r.copy.stages.getD (i - 1) _ = st
  rw [List.getD_eq_getElem?_getD, hst, Option.getD_some]

theorem mismatched_iff {s : State} {k : Fin 4} : mismatched s k = true ↔
    s.mgu.config.mismatch * greenTotal (loadOf s k) < ((netOf s k : Int) - greenTotal (loadOf s k)).natAbs * 1000 := by
  have hgap : ((netOf s k : Int) - greenTotal (loadOf s k)).natAbs =
      netOf s k - greenTotal (loadOf s k) + (greenTotal (loadOf s k) - netOf s k) := by omega
  rw [mismatched, decide_eq_true_eq, hgap]

theorem mismatchCheck_notLive {s : State} {k : Fin 4} (h : isLive s (setupOf s k).scale = false) :
    mismatchCheck k s = postEvent .scaleSuspect (kilnContext k) (markSuspect k s) := by
  rw [mismatchCheck, h]
  rfl

theorem mismatchCheck_live {s : State} {k : Fin 4} (h : isLive s (setupOf s k).scale = true) :
    mismatchCheck k s = if mismatched s k then postEvent .loadMismatch (kilnContext k) (markSuspect k s) else s := by
  rw [mismatchCheck, h]
  rfl

/-- Settles O54: `holdKiln` by the kiln's state, the posting by the bound actuator, and the load check by the scale. -/
theorem kilnHoldsCommandsAndTheLoadCheck : Obligations.KilnHoldsCommandsAndTheLoadCheck := by
  refine ⟨fun k cause s => ⟨fun i hi => ?hold, fun i hi => holdKiln_held hi cause, fun hd hh => holdKiln_notRunning hd hh cause⟩,
    fun k v s => ⟨fun hb => if_pos (bound_iff.mpr hb), fun hb => if_neg (fun h => hb (bound_iff.mp h)), fun hf =>
      if_pos (bound_iff.mpr hf), fun hf => if_neg (fun h => hf (bound_iff.mp h))⟩,
    fun k i s => ⟨fun r st hr hst => ?commands, rfl, rfl⟩, fun k s => ⟨mismatchCheck_notLive, fun hlive hgap => ?_, fun hlive hgap => ?_⟩⟩
  case hold =>
    have honly := heldWith_kilnsOnly k i cause s
    exact ⟨heldWith k i cause s, holdKiln_drying_eq hi cause, (heldWith_kilns k i cause s).1, (heldWith_kilns k i cause s).2,
      honly.kfr, by rw [honly.itk], honly.uar, honly.cfl, honly.pru⟩
  case commands =>
    have hstage : stageAt (s.kilns.get k) i = st := stageAt_running hr hst
    have hburner : dryingBurner s k = (max 0 (min (s.kilns.get k).setpoint ((setupOf s k).ceiling : Int))).toNat := by
      rw [dryingBurner]
      omega
    exact ⟨by rw [postDrying, hstage, hburner], by rw [postHeld, hstage]⟩
  · rw [mismatchCheck_live hlive]
    exact if_pos (mismatched_iff.mpr hgap)
  · rw [mismatchCheck_live hlive]
    exact if_neg (fun h => Nat.not_lt.mpr hgap (mismatched_iff.mp h))

/-! ### Filling, closing and LOADED (R34, R50, R52, R54) -/

theorem placeCarry_some {slot : Fin 32} {l : Lot} {s : State} (h : lotAt s slot = some l) (grams : Nat) :
    placeCarry slot grams s = placeByTable 2 slot l grams (if (fillingKiln s).isNone then selectKiln s else s) := by
  rw [placeCarry, h]

theorem lowRoom_iff {s : State} {k : Fin 4} : lowRoom s k = true ↔
    roomOf s k < s.mgu.config.feedQuantum ∧ ∀ j, eligible s j = false := by
  rw [lowRoom, Bool.and_eq_true, decide_eq_true_eq, Bool.not_eq_true', Bool.eq_false_iff, ne_eq, anyEligible_iff]
  simp only [not_exists, Bool.not_eq_true]

theorem lowRoomClose_none {s : State} (h : fillingKiln s = none) : lowRoomClose s = s := by
  rw [lowRoomClose, h]

theorem lowRoomClose_some {s : State} {k : Fin 4} (h : fillingKiln s = some k) :
    lowRoomClose s = if lowRoom s k then enterLoaded k s else s := by
  rw [lowRoomClose, h]

theorem growContribution_getElem? {slot : Fin 32} {grams i : Nat} {r : LoadRecord} {c : Contribution}
    (h : r.contributions[i]? = some c) : (growContribution slot grams r).contributions[i]? = some (if c.slot = some slot then
      { c with green := sat32 (c.green + grams), dry := dryMatter (sat32 (c.green + grams)) c.w } else c) := by
  rw [growContribution, List.getElem?_map, h, Option.map_some]

/-- A kiln LOADED, before its load's kiln references (R54). -/
def loadedKiln (k : Fin 4) (s : State) : State :=
  moveKiln k .loaded (modifyKiln k (fun kl => { kl with lastBurner := none, lastFan := none }) s)

/-- A kiln LOADED, with its load's kiln references (R54). -/
def loadedRefs (k : Fin 4) (s : State) : State := forEachLot k addKilnRef (loadedKiln k s)

theorem enterLoaded_eq (k : Fin 4) (s : State) : enterLoaded k s =
    selectKiln (if (setupOf (loadedRefs k s) k).autostart && hasRecipe (loadedRefs k s) k then startDrying k (loadedRefs k s)
      else loadedRefs k s) := rfl

theorem loadedKiln_kilnsOnly (k : Fin 4) (s : State) : KilnsOnly s (loadedKiln k s) :=
  (kilnsOnly_modifyKiln k _ s).trans (kilnsOnly_moveKiln k _ _)

theorem loadedKiln_kilns (k : Fin 4) (s : State) :
    (loadedKiln k s).kilns.get k = { s.kilns.get k with state := .loaded, lastBurner := none, lastFan := none } ∧
    ∀ j, j ≠ k → (loadedKiln k s).kilns.get j = s.kilns.get j := by
  refine ⟨?_, fun j hj => ?_⟩
  · rw [loadedKiln, moveKiln_self, modifyKiln_self]
  · rw [loadedKiln, moveKiln_other _ _ hj, modifyKiln_other _ _ hj]

/-- The autostart of R54 reads the kiln setups and the recipes, which the entry into LOADED keeps. -/
theorem loadedRefs_autostart (k : Fin 4) (s : State) : ((setupOf (loadedRefs k s) k).autostart && hasRecipe (loadedRefs k s) k) = true ↔
    (setupOf s k).autostart = true ∧ (setupOf s k).recipe ≠ 0 ∧
      (s.rct.recipes.getD ((setupOf s k).recipe - 1) ⟨0, []⟩).stages ≠ [] := by
  have hkfr : (loadedRefs k s).kfr = s.kfr := (posted_forEachLot k _ _).kfr.trans (loadedKiln_kilnsOnly k s).kfr
  have hrct : (loadedRefs k s).rct = s.rct := (posted_forEachLot k _ _).rct.trans (loadedKiln_kilnsOnly k s).tables.2.2.1
  rw [Bool.and_eq_true, hasRecipe_iff, setupOf, hkfr, hrct]
  rfl

/-- Settles O55: the carry, the two closes, the grown contribution and the entry into LOADED, each by its own test. -/
theorem fillingClosesAndLoads : Obligations.FillingClosesAndLoads := by
  refine ⟨fun slot l grams s hl => ⟨fun h => ?_, fun h => ?_⟩, fun k f s => ⟨rfl, Tab.get_set_self _ _ _, rfl, fun j hj =>
    Tab.get_set_ne _ _ (Ne.symm hj), rfl⟩, fun k s => ?closes, fun slot grams r => ⟨rfl, List.length_map _, fun i c hc => ?grown⟩,
    fun k s => ?loaded⟩
  · rw [placeCarry_some hl, h]
    rfl
  · rw [placeCarry_some hl, if_neg (by rwa [Option.isNone_iff_eq_none])]
  case closes =>
    refine ⟨fun h => if_pos h, fun h => if_neg (Nat.not_le.mpr h), lowRoomClose_none, fun hk ⟨j, hj⟩ => ?_, fun hk hnone =>
      ⟨fun hroom => ?_, fun hroom => ?_⟩⟩
    · rw [lowRoomClose_some hk]
      exact if_neg (fun h => by rw [(lowRoom_iff.mp h).2 j] at hj; exact Bool.false_ne_true hj)
    · rw [lowRoomClose_some hk]
      exact if_pos (lowRoom_iff.mpr ⟨hroom, hnone⟩)
    · rw [lowRoomClose_some hk]
      exact if_neg (fun h => Nat.not_lt.mpr hroom (lowRoom_iff.mp h).1)
  case grown =>
    rw [growContribution_getElem? hc]
    exact ⟨fun hne => by rw [if_neg hne], fun he => by rw [if_pos he]; rfl⟩
  case loaded =>
    have honly := loadedKiln_kilnsOnly k s
    refine ⟨loadedKiln k s, loadedRefs k s, (loadedKiln_kilns k s).1, (loadedKiln_kilns k s).2, honly.kfr, by rw [honly.itk],
      honly.uar, honly.cfl, ?_, ?_⟩
    · rw [loadedRefs, forEachLot, loadOf, loadOf, honly.kfr]
      rfl
    · intro e ready
      rw [enterLoaded_eq]
      exact ⟨fun h => by rw [if_pos ((loadedRefs_autostart k s).mpr h)], fun h => by
        rw [if_neg (fun hb => h ((loadedRefs_autostart k s).mp hb))]⟩

end Sys2Proof.Machine
end

section
/-! Updates to lots and the completion test (R39, R40), and the build test (R126 to R128, R135). -/

namespace Sys2Proof.Machine

/-! ### Updates to lots and the completion test (R39, R40) -/

theorem completes_iff {s : State} {i : Fin 32} {l : Lot} : completes s i l = true ↔
    l.state = .inProcess ∧ l.kilnRefs = 0 ∧ l.floorMass = 0 ∧
      ∀ k, fillingKiln s = some k → ∀ c ∈ (loadOf s k).contributions, c.slot ≠ some i := by
  rw [completes, Bool.and_eq_true, decide_eq_true_eq, and_assoc, and_assoc]
  refine and_congr_right fun _ => and_congr_right fun _ => and_congr_right fun _ => ?_
  cases fillingKiln s with
  | none => simp
  | some k => simp

theorem updateLot_none {s : State} {i : Fin 32} (h : lotAt s i = none) (f : Lot → Lot) : updateLot i f s = s := by
  rw [updateLot, h]

theorem updateLot_some {s : State} {i : Fin 32} {l : Lot} (h : lotAt s i = some l) (f : Lot → Lot) :
    updateLot i f s = completionTest i (setLot i (some (f l)) s) := by
  rw [updateLot, h]

theorem markComplete_some {s : State} {i : Fin 32} {l : Lot} (h : lotAt s i = some l) : markComplete i s = if completes s i l then
      onTku (fun b => { b with waitList := b.waitList ++ [⟨i, l.number, .final⟩] }) (setLot i (some { l with state := .complete }) s)
    else s := by
  rw [markComplete, h]

theorem completionTest_some {s : State} {i : Fin 32} {l : Lot} (h : lotAt s i = some l) :
    completionTest i s = if completes s i l then buildTest (markComplete i s) else s := by
  rw [completionTest, h]

theorem addBaleShare_eq (share bale moisture : Nat) (b : BaleFlags) (l : Lot) : addBaleShare share bale moisture b l = { l with
    floorMass := l.floorMass - share
    refs := if l.refs.length < 48 then l.refs ++ [⟨bale, share, moisture⟩] else l.refs
    baledMass := sat32 (l.baledMass + share)
    drySum := sat64 (l.drySum + dryFigure share moisture)
    flags := { l.flags with
      shortBale := l.flags.shortBale || b.short
      unsettled := l.flags.unsettled || b.unsettled
      bookShort := l.flags.bookShort || b.bookShort
      refsFull := l.flags.refsFull || decide (48 ≤ l.refs.length) } } := rfl

theorem loadOf_setLoad (k : Fin 4) (r : LoadRecord) (s : State) : loadOf (setLoad k r s) k = r := Tab.get_set_self _ _ _

/-- Settles O56: the completion test by its condition, and each update by its definition. -/
theorem lotUpdatesAndTheCompletionTest : Obligations.LotUpdatesAndTheCompletionTest := by
  refine ⟨fun i f s => ⟨rfl, rfl, fun h => updateLot_none h f, fun l h => updateLot_some h f⟩, fun i l s hl => ⟨fun h => ?_, fun h =>
    ?_⟩, fun l n m => ⟨rfl, rfl, rfl, rfl⟩, fun share bale moisture b l => ⟨rfl, fun h => ?_, fun h => ?_⟩, fun c p ps s =>
    ⟨rfl, rfl⟩, fun l s => ⟨_, rfl, ?_⟩, fun k s => ⟨rfl, ?_⟩⟩
  · rw [completionTest_some hl, if_neg (fun hc => h (completes_iff.mp hc))]
  · rw [completionTest_some hl, if_pos (completes_iff.mpr h), markComplete_some hl, if_pos (completes_iff.mpr h)]
  · rw [addBaleShare_eq]
    refine ⟨if_pos h, ?_⟩
    show (l.flags.refsFull || decide (48 ≤ l.refs.length)) = l.flags.refsFull
    rw [decide_eq_false (Nat.not_le.mpr h), Bool.or_false]
  · rw [addBaleShare_eq]
    refine ⟨if_neg (Nat.not_lt.mpr h), ?_⟩
    show (l.flags.refsFull || decide (48 ≤ l.refs.length)) = true
    rw [decide_eq_true h, Bool.or_true]
  · rw [sweepLayer]
    refine congrArg (fun ls => setLayers ls _) (List.filter_congr fun m _ => ?_)
    rw [swept, ← Bool.decide_and]
  · rw [markSuspect, forEachLot, loadOf_setLoad]
    rfl

/-! ### The build test (R126 to R128, R135) -/

/-- There is room for the ticket of a lot's record (R128). -/
abbrev HasRoom (s : State) (l : Lot) : Prop := s.tku.queue.length < 32 ∧ blocksFor l.refs.length ≤ freeBlocks s

theorem buildHead_cons {s : State} {e : WaitEntry} {rest : List WaitEntry} {l : Lot} (h : s.tku.waitList = e :: rest)
    (hl : lotAt s e.slot = some l) : buildHead s = if HasRoom s l then some (build e rest l s) else none := by
  simp only [buildHead, h, hl]

theorem buildLoop_none {s : State} (h : buildHead s = none) (n : Nat) : buildLoop n s = s := by
  cases n with
  | zero => rfl
  | succ n => rw [buildLoop, h]

theorem buildTest_none {s : State} (h : buildHead s = none) : buildTest s = blockedTest s := by
  rw [buildTest, buildLoop_none h]

theorem buildHead_nil {s : State} (h : s.tku.waitList = []) : buildHead s = none := by
  rw [buildHead, h]

theorem blockedTest_nil {s : State} (h : s.tku.waitList = []) : blockedTest s = onTku (fun b => { b with blocked := false }) s := by
  rw [blockedTest, h]

theorem blockedTest_cons {s : State} {e : WaitEntry} {rest : List WaitEntry} (h : s.tku.waitList = e :: rest) : blockedTest s =
    if s.tku.blocked then s else postEvent .storeFull ⟨none, some e.lotNumber, none, (oneOf (blockedCauses s e) s).1⟩
      (onTku (fun b => { b with blocked := true }) (oneOf (blockedCauses s e) s).2) := by
  rw [blockedTest, h]

theorem oneOf_two {α : Type} (x y : α) (s : State) : ∃ z, ((z = x) ∨ z = y) ∧
    oneOf [x, y] s = (some z, { s with sched := s.sched.tail }) := by
  rw [oneOf, takeChoice_eq]
  obtain h | h := Nat.mod_two_eq_zero_or_one (s.sched.headD 0)
  · refine ⟨x, .inl rfl, ?_⟩
    show (some ([x, y].getD (s.sched.headD 0 % 2) x), _) = _
    rw [h]
    rfl
  · refine ⟨y, .inr rfl, ?_⟩
    show (some ([x, y].getD (s.sched.headD 0 % 2) x), _) = _
    rw [h]
    rfl

/-- The cause given for a head without room is one that holds (R135, log 35). -/
theorem blockedCause_holds {s : State} {e : WaitEntry} (h : freeBlocks s < neededBlocks s e ∨ 32 ≤ s.tku.queue.length) :
    ∃ (cause : Nat) (choices : List Nat), oneOf (blockedCauses s e) s = (some cause, { s with sched := choices }) ∧
      ((cause = 1 ∧ freeBlocks s < neededBlocks s e) ∨ (cause = 2 ∧ 32 ≤ s.tku.queue.length)) := by
  rw [blockedCauses]
  by_cases hblocks : freeBlocks s < neededBlocks s e
  · by_cases hqueue : 32 ≤ s.tku.queue.length
    · rw [if_pos hblocks, if_pos hqueue]
      obtain ⟨z, hz, heq⟩ := oneOf_two 1 2 s
      exact ⟨z, _, heq, hz.imp (fun hz => ⟨hz, hblocks⟩) (fun hz => ⟨hz, hqueue⟩)⟩
    · rw [if_pos hblocks, if_neg hqueue]
      exact ⟨1, s.sched, rfl, .inl ⟨rfl, hblocks⟩⟩
  · have hqueue := h.resolve_left hblocks
    rw [if_neg hblocks, if_pos hqueue]
    exact ⟨2, s.sched, rfl, .inr ⟨rfl, hqueue⟩⟩

theorem placePart_tail {e : WaitEntry} {ws : List WaitEntry} (h : ∀ w ∈ ws, ¬ (w.slot = e.slot ∧ w.kind = .final)) :
    placePart e ws = ws ++ [e] := by
  induction ws with
  | nil => rfl
  | cons w ws ih =>
    rw [placePart, if_neg (h w List.mem_cons_self), ih (fun x hx => h x (List.mem_cons_of_mem w hx)), List.cons_append]

theorem placePart_ahead {e w : WaitEntry} {l r : List WaitEntry} (h : ∀ x ∈ l, ¬ (x.slot = e.slot ∧ x.kind = .final))
    (hw : w.slot = e.slot ∧ w.kind = .final) : placePart e (l ++ w :: r) = l ++ e :: w :: r := by
  induction l with
  | nil => exact if_pos hw
  | cons x l ih =>
    rw [List.cons_append, placePart, if_neg (h x List.mem_cons_self), ih (fun y hy => h y (List.mem_cons_of_mem x hy)),
      List.cons_append]

theorem holdsLot_iff {s : State} {i : Fin 32} {n : Nat} : holdsLot s i n = true ↔ ∃ l, lotAt s i = some l ∧ l.number = n := by
  rw [holdsLot]
  cases lotAt s i with
  | none => simp
  | some l => simp

/-- Settles O57: the build test by its head, and the part-ticket request by the slot's record. -/
theorem buildTestTakesTheHead : Obligations.BuildTestTakesTheHead := by
  refine ⟨fun s => ⟨fun h => ?empty, fun e rest l h hl => ?head⟩, fun s => rfl, fun e ws => ⟨placePart_tail, fun l w r hws hl hs hk =>
    hws ▸ placePart_ahead hl ⟨hs, hk⟩⟩, fun i n s => ⟨fun h => ?dead, fun l hl hn => ?live⟩⟩
  case empty => rw [buildTest_none (buildHead_nil h), blockedTest_nil h]
  case head =>
    intro needs room
    have hhead := buildHead_cons h hl
    refine ⟨fun hroom => buildTest_of_buildHead (hhead.trans (if_pos hroom)), fun hroom hb => ?_, fun hroom hb => ?_⟩
    · rw [buildTest_none (hhead.trans (if_neg hroom)), blockedTest_cons h, if_pos hb]
    · have hneeds : neededBlocks s e = needs := by
        rw [neededBlocks, hl]
        rfl
      have hcause : freeBlocks s < neededBlocks s e ∨ 32 ≤ s.tku.queue.length := by
        rw [hneeds]
        have := not_and_or.mp hroom
        omega
      obtain ⟨cause, choices, heq, hholds⟩ := blockedCause_holds hcause
      refine ⟨cause, choices, ?_, hneeds ▸ hholds⟩
      rw [buildTest_none (hhead.trans (if_neg hroom)), blockedTest_cons h, if_neg (by rw [hb]; decide), heq]
  case dead => exact if_neg (fun hheld => by
    obtain ⟨l, hl, hn⟩ := holdsLot_iff.mp hheld
    exact h l hl hn)
  case live =>
    refine ⟨_, _, if_pos (holdsLot_iff.mpr ⟨l, hl, hn⟩), rfl, ?_⟩
    rw [Bool.not_eq_true', List.any_eq_false]
    exact ⟨fun h hm => h _ hm (decide_eq_true rfl), fun h x hx hxe => h (of_decide_eq_true hxe ▸ hx)⟩

end Sys2Proof.Machine
end

section
/-! Tickets built (R130 to R134), offered and sent (R137 to R142). -/

namespace Sys2Proof.Machine

/-! ### The ticket of a build (R130 to R133) -/

/-- A bale record of the log shows a lot's bale reference (R132). -/
abbrev ShowsBale (slot : Fin 32) (x : BaleRef) (b : BaleRecord) : Prop :=
  b.number = x.bale ∧ ∃ sh ∈ b.shares, sh.slot = some slot ∧ sh.grams = x.share

theorem loggedBale_none {log : List BaleRecord} {slot : Fin 32} {x : BaleRef} (h : ∀ b ∈ log, ¬ ShowsBale slot x b) :
    loggedBale log slot x = none :=
  List.find?_eq_none.mpr (fun b hb hp => by
    simp only [Bool.and_eq_true, decide_eq_true_eq, List.any_eq_true] at hp
    exact h b hb hp)

theorem loggedBale_first {before behind : List BaleRecord} {b : BaleRecord} {slot : Fin 32} {x : BaleRef}
    (hb : ShowsBale slot x b) (h : ∀ y ∈ before, ¬ ShowsBale slot x y) :
    loggedBale (before ++ b :: behind) slot x = some b := by
  refine find?_first ?_ (fun y hy => Bool.eq_false_iff.mpr (fun hp => h y hy ?_))
  · simpa only [Bool.and_eq_true, decide_eq_true_eq, List.any_eq_true] using hb
  · simpa only [Bool.and_eq_true, decide_eq_true_eq, List.any_eq_true] using hp

theorem builtTicket_entry {s : State} {e : WaitEntry} {l : Lot} {i : Nat} {x : BaleRef} (h : l.refs[i]? = some x) :
    (builtTicket e l s).entries[i]? = some (ticketEntry s.pru.log e.slot x) := by
  rw [builtTicket, List.getElem?_map, h, Option.map_some]

theorem ticketEntry_none {log : List BaleRecord} {slot : Fin 32} {x : BaleRef} (h : loggedBale log slot x = none) :
    ticketEntry log slot x = ⟨x.bale, tenths x.share, x.moisture, ⟨false, false, false, false⟩, false⟩ := by
  simp only [ticketEntry, h, Option.isSome_none]

theorem ticketEntry_some {log : List BaleRecord} {slot : Fin 32} {x : BaleRef} {b : BaleRecord} (h : loggedBale log slot x = some b) :
    ticketEntry log slot x = ⟨x.bale, tenths x.share, x.moisture, b.flags, true⟩ := by
  simp only [ticketEntry, h, Option.isSome_some]

/-! ### The update of a build (R134) -/

theorem setLot_setLot (i : Fin 32) (r r' : Option Lot) (s : State) : setLot i r (setLot i r' s) = setLot i r s := by
  have hset : (s.itk.lots.set i r').set i r = s.itk.lots.set i r := by
    refine Tab.ext_get (fun j => ?_)
    by_cases hj : i = j
    · subst hj
      rw [Tab.get_set_self, Tab.get_set_self]
    · rw [Tab.get_set_ne _ _ hj, Tab.get_set_ne _ _ hj, Tab.get_set_ne _ _ hj]
  show onItk (fun b => { b with lots := (s.itk.lots.set i r').set i r }) s = _
  rw [hset]
  rfl

/-- A record with the part ticket's update, and complete where it meets the completion test (R40, R134). -/
theorem markComplete_setLot (i : Fin 32) (m : Lot) (s : State) : markComplete i (setLot i (some m) s) =
    if completes s i m then onTku (fun b => { b with waitList := b.waitList ++ [⟨i, m.number, .final⟩] })
      (setLot i (some { m with state := .complete }) s) else setLot i (some m) s := by
  rw [markComplete_some (lotAt_setLot_self i (some m) s), setLot_setLot]
  rfl

/-- The state of a build before its lot's update: the ticket queued and its entry gone from the wait list (R130). -/
def ticketQueued (e : WaitEntry) (rest : List WaitEntry) (l : Lot) (s : State) : State :=
  onTku (fun b => { b with
    queue := b.queue ++ [builtTicket e l s], nextSerial := nextInSequence 65535 (builtTicket e l s).serial, waitList := rest
    blocked := false }) s

theorem build_eq (e : WaitEntry) (rest : List WaitEntry) (l : Lot) (s : State) : build e rest l s =
    offerTest (exhaustedTest (requestBuilt e (postEvent .ticketReady ⟨none, some e.lotNumber, some (builtTicket e l s).serial, none⟩
      (applyBuild e l (ticketQueued e rest l s))))) := rfl

theorem build_final {e : WaitEntry} (h : e.kind = .final) (rest : List WaitEntry) (l : Lot) (s : State) : build e rest l s =
    offerTest (exhaustedTest (postEvent .ticketReady ⟨none, some e.lotNumber, some (builtTicket e l s).serial, none⟩
      (setLot e.slot none (ticketQueued e rest l s)))) := by
  rw [build_eq, requestBuilt, applyBuild, h]

/-- The lot's record after the build of its part ticket (R134), with the completion test (R40). -/
def partUpdated (e : WaitEntry) (rest : List WaitEntry) (l : Lot) (s : State) : State :=
  markComplete e.slot (setLot e.slot (some (partBuilt (validTime s) l)) (ticketQueued e rest l s))

theorem build_part {e : WaitEntry} (h : e.kind = .part) (rest : List WaitEntry) (l : Lot) (s : State) : build e rest l s =
    offerTest (exhaustedTest (onPru (fun p => { p with waiting := p.waiting.filter (fun w => decide (w.1 ≠ e.slot)) })
      (postEvent .ticketReady ⟨none, some e.lotNumber, some (builtTicket e l s).serial, none⟩
        (if l.flags.refsFull then decidePress (partUpdated e rest l s) else partUpdated e rest l s)))) := by
  rw [build_eq, requestBuilt, applyBuild, h]
  rfl

theorem partUpdated_eq (e : WaitEntry) (rest : List WaitEntry) (l : Lot) (s : State) : partUpdated e rest l s =
    if completes s e.slot l then
      onTku (fun b => { b with waitList := b.waitList ++ [⟨e.slot, l.number, .final⟩] })
        (setLot e.slot (some { partBuilt (validTime s) l with state := .complete }) (ticketQueued e rest l s))
    else setLot e.slot (some (partBuilt (validTime s) l)) (ticketQueued e rest l s) :=
  markComplete_setLot e.slot (partBuilt (validTime s) l) (ticketQueued e rest l s)

/-- Settles O58: the build by the kind of its entry, and the fields of the ticket built. -/
theorem buildOfATicket : Obligations.BuildOfATicket := by
  refine ⟨fun e rest l s => ⟨fun h => build_final h rest l s, fun h => ⟨partUpdated e rest l s, build_part h rest l s, ?part⟩⟩,
    fun e l s => ⟨rfl, rfl, rfl, nextTicketSerial_not_mem, fun h => firstFree_of_not_mem h _, rfl, rfl, rfl, rfl, rfl, rfl, rfl, rfl,
      rfl, rfl, rfl, rfl, rfl, rfl, fun h => ?partHeader, fun h => ?finalHeader, List.length_map _, fun i x hx => ?entries⟩⟩
  case part =>
    intro emptied ends
    rw [partUpdated_eq]
    exact ⟨fun h => by rw [if_neg (fun hc => h (completes_iff.mp hc))]; rfl, fun h => by rw [if_pos (completes_iff.mpr h)]; rfl⟩
  case partHeader =>
    simp only [builtTicket, ticketHeader, h]
    exact ⟨rfl, trivial, trivial, trivial⟩
  case finalHeader => simp only [builtTicket, ticketHeader, h, and_self]
  case entries =>
    refine ⟨fun h => ?_, fun before b behind hlog hb h => ?_⟩
    · rw [builtTicket_entry hx, ticketEntry_none (loggedBale_none h)]
    · rw [builtTicket_entry hx, hlog, ticketEntry_some (loggedBale_first hb h)]

/-! ### Tickets offered and sent (R137 to R142) -/

theorem oldestUnsent_none {s : State} (h : ∀ t ∈ s.tku.queue, ¬ t.state ≠ .sent) : oldestUnsent s = none :=
  List.find?_eq_none.mpr (fun t ht hp => h t ht (of_decide_eq_true hp))

theorem oldestUnsent_first {s : State} {l r : List Ticket} {t : Ticket} (hqueue : s.tku.queue = l ++ t :: r) (ht : t.state ≠ .sent)
    (hl : ∀ x ∈ l, ¬ x.state ≠ .sent) : oldestUnsent s = some t := by
  rw [oldestUnsent, hqueue]
  exact find?_first (decide_eq_true ht) (fun x hx => decide_eq_false (hl x hx))

theorem exhaustedTest_credits {s : State} (h : 0 < s.tku.credits) :
    exhaustedTest s = onTku (fun b => { b with exhausted := false }) s := if_pos h

theorem exhaustedTest_none {s : State} (h : s.tku.credits = 0) (hnone : oldestUnsent s = none) : exhaustedTest s = s := by
  rw [exhaustedTest, if_neg (by omega), hnone]

theorem exhaustedTest_some {s : State} {t : Ticket} (h : s.tku.credits = 0) (ht : oldestUnsent s = some t) : exhaustedTest s =
    if s.tku.run && !s.tku.exhausted then
      postEvent .creditExhausted ⟨none, none, some t.serial, none⟩ (onTku (fun b => { b with exhausted := true }) s)
    else s := by
  rw [exhaustedTest, if_neg (by omega), ht]

/-- The transmitter may offer a segment (R139, R165). -/
abbrev MayOffer (s : State) : Prop := s.tku.run = true ∧ 1 ≤ s.tku.credits ∧ s.rlu.slot = none ∧ strapOk s = true

theorem mayOffer_iff {s : State} :
    (s.tku.run && decide (1 ≤ s.tku.credits) && s.rlu.slot.isNone && strapOk s) = true ↔ MayOffer s := by
  rw [Bool.and_eq_true, Bool.and_eq_true, Bool.and_eq_true, decide_eq_true_eq, Option.isNone_iff_eq_none, and_assoc, and_assoc]

theorem offerTest_not {s : State} (h : ¬ MayOffer s) : offerTest s = s := if_neg (fun hb => h (mayOffer_iff.mp hb))

theorem offerTest_none {s : State} (hnone : oldestUnsent s = none) : offerTest s = s := by
  rw [offerTest, hnone]
  exact ite_self _

theorem offerTest_some {s : State} {t : Ticket} (h : MayOffer s) (ht : oldestUnsent s = some t) :
    offerTest s = onRlu (fun b => { b with slot := some (nextSegment t) }) s := by
  rw [offerTest, if_pos (mayOffer_iff.mpr h), ht]

/-- Settles O59: the two tests by the oldest ticket not SENT, and the moves of a ticket. -/
theorem ticketsAreOfferedAndSent : Obligations.TicketsAreOfferedAndSent := by
  refine ⟨fun s => ⟨exhaustedTest_credits, fun hall h => exhaustedTest_none h (oldestUnsent_none hall), fun hall =>
    offerTest_none (oldestUnsent_none hall), fun hno => offerTest_not (fun h => ?closed), fun l t r hqueue ht hl => ?oldest⟩,
    fun t => ⟨fun h => if_pos h, fun h => if_neg (Nat.not_lt.mpr h), rfl⟩⟩
  case closed =>
    obtain ⟨hrun, hcredits, hslot, hstrap⟩ := h
    obtain hno | hno | hno | hno := hno
    · exact Bool.false_ne_true (hno.symm.trans hrun)
    · omega
    · exact hno hslot
    · exact Bool.false_ne_true (hno.symm.trans hstrap)
  case oldest =>
    have hold := oldestUnsent_first hqueue ht hl
    refine ⟨fun h hno => ?_, fun h hrun hexhausted => ?_, fun hrun hcredits hslot hstrap => ⟨nextSegment t,
      offerTest_some ⟨hrun, hcredits, hslot, hstrap⟩ hold, rfl, rfl, rfl, fun h => if_pos h, fun h => if_neg h⟩⟩
    · rw [exhaustedTest_some h hold]
      obtain hno | hno := hno <;> rw [hno]
      · rfl
      · rw [Bool.not_true, Bool.and_false]
        rfl
    · rw [exhaustedTest_some h hold, hrun, hexhausted]
      rfl

end Sys2Proof.Machine
end

section
/-! The bale close (R112 to R119). -/

namespace Sys2Proof.Machine

/-! ### The parts of the draws (R114) -/

theorem drawParts_of_split {d : Nat} {shares : List Share} {parts : List Nat} (h : split d (shares.map (·.grams)) = some parts) :
    drawParts d shares = parts := by
  rw [drawParts, h, Option.getD_some]

theorem length_drawParts (d : Nat) (shares : List Share) : (drawParts d shares).length = shares.length := by
  cases h : split d (shares.map (·.grams)) with
  | none => rw [drawParts, h, Option.getD_none, List.length_map]
  | some parts => rw [drawParts_of_split h, split_length h, List.length_map]

theorem split_drawParts {shares : List Share} (h : ∃ sh ∈ shares, 0 < sh.grams) (d : Nat) :
    split d (shares.map (·.grams)) = some (drawParts d shares) := by
  have hsum : (shares.map (·.grams)).sum ≠ 0 := by
    obtain ⟨sh, hmem, hpos⟩ := h
    have := List.single_le_sum (fun _ _ => Nat.zero_le _) _ (List.mem_map_of_mem (f := (·.grams)) hmem)
    omega
  rw [drawParts, split_eq_some hsum, Option.getD_some]

theorem zip_drawParts_sum {d : Nat} {l : Layer} (h : LayerOk l) (hd : d ≤ l.remaining) :
    ((l.shares.zip (drawParts d l.shares)).map (·.2)).sum = d := by
  rw [List.map_snd_zip (length_drawParts d l.shares).le]
  exact drawParts_sum d l.shares (hd.trans h.1.ge)

/-- The parts of the two draws make up the draws, where the shares of each layer are all that is left of it (R114). -/
theorem drawnParts_sum (b : Nat) {ls : List Layer} (h : ∀ l ∈ ls, LayerOk l) :
    ((drawnParts (draws b ls) ls).map (·.2)).sum = (draws b ls).1 + (draws b ls).2 := by
  match ls, h with
  | [], _ => rfl
  | [l], h =>
    have hd : (draws b [l]).1 ≤ l.remaining ∧ (draws b [l]).2 = 0 := by
      rw [draws]
      split
      · exact ⟨Nat.min_le_right _ _, rfl⟩
      · exact ⟨Nat.zero_le _, rfl⟩
    rw [drawnParts, zip_drawParts_sum (h l List.mem_cons_self) hd.1, hd.2, Nat.add_zero]
  | l :: m :: r, h =>
    obtain ⟨h1, h2⟩ := draws_le b l m r
    rw [drawnParts, List.map_append, List.sum_append, zip_drawParts_sum (h l List.mem_cons_self) h1,
      zip_drawParts_sum (h m (List.mem_cons_of_mem l List.mem_cons_self)) h2]

theorem unassignedParts_eq (parts : List (Share × Nat)) :
    unassignedParts parts = ((parts.filter (fun p => decide (p.1.slot = none))).map (·.2)).sum := by
  rw [unassignedParts]
  refine congrArg (fun ps : List (Share × Nat) => (ps.map (·.2)).sum) (List.filter_congr fun p _ => ?_)
  cases p.1.slot <;> rfl

/-- The parts of lots and the parts of UNASSIGNED shares are all the parts. -/
theorem lotParts_add_unassignedParts (parts : List (Share × Nat)) :
    ((parts.filter (fun p => p.1.slot.isSome)).map (·.2)).sum + unassignedParts parts = (parts.map (·.2)).sum := by
  induction parts with
  | nil => rfl
  | cons p parts ih =>
    rw [unassignedParts] at ih ⊢
    cases h : p.1.slot <;> simp only [List.filter_cons, h, Option.isSome_none, Option.isSome_some, Option.isNone_none,
      Option.isNone_some, Bool.false_eq_true, if_true, if_false, List.map_cons, List.sum_cons] <;> omega

/-! ### The lot shares of a bale (R114) -/

theorem baleLotShares_eq (parts : List (Share × Nat)) :
    baleLotShares parts = (parts.foldl gather []).filter (fun sh => decide (0 < sh.grams)) := rfl

theorem baleLotShares_pairwise (parts : List (Share × Nat)) : (baleLotShares parts).Pairwise (fun x y =>
    (parts.map (fun p => lotKey p.1)).idxOf (lotKey x) < (parts.map (fun p => lotKey p.1)).idxOf (lotKey y)) :=
  (gathered parts).1.filter _

theorem mem_baleLotShares {parts : List (Share × Nat)} {sh : Share} (h : sh ∈ baleLotShares parts) :
    sh.slot ≠ none ∧ 0 < sh.grams ∧ sh.grams = gramsFor (lotKey sh) parts := by
  rw [baleLotShares_eq, List.mem_filter, decide_eq_true_eq] at h
  obtain ⟨-, hlots, hgrams, -⟩ := gathered parts
  exact ⟨((hlots (lotKey sh)).mp (List.mem_map_of_mem h.1)).2, h.2, hgrams sh h.1⟩

theorem lotKey_mem_baleLotShares {parts : List (Share × Nat)} {p : Share × Nat} (hp : p ∈ parts) (hslot : p.1.slot ≠ none)
    (hpos : 0 < gramsFor (lotKey p.1) parts) : lotKey p.1 ∈ (baleLotShares parts).map lotKey := by
  obtain ⟨-, hlots, hgrams, -⟩ := gathered parts
  obtain ⟨y, hy, hkey⟩ := List.mem_map.mp ((hlots (lotKey p.1)).mpr
    ⟨List.mem_map_of_mem (f := fun q : Share × Nat => lotKey q.1) hp, hslot⟩)
  refine hkey ▸ List.mem_map_of_mem ?_
  rw [baleLotShares_eq, List.mem_filter, decide_eq_true_eq, hgrams y hy, hkey]
  exact ⟨hy, hpos⟩

theorem sum_filter_pos (shares : List Share) :
    ((shares.filter (fun sh => decide (0 < sh.grams))).map (·.grams)).sum = (shares.map (·.grams)).sum := by
  induction shares with
  | nil => rfl
  | cons sh shares ih =>
    by_cases h : 0 < sh.grams
    · rw [List.filter_cons_of_pos (by simpa using h), List.map_cons, List.map_cons, List.sum_cons, List.sum_cons, ih]
    · rw [List.filter_cons_of_neg (by simpa using h), ih, List.map_cons, List.sum_cons]
      omega

theorem baleLotShares_sum (parts : List (Share × Nat)) :
    ((baleLotShares parts).map (·.grams)).sum = ((parts.filter (fun p => p.1.slot.isSome)).map (·.2)).sum := by
  rw [baleLotShares_eq, sum_filter_pos]
  exact (gathered parts).2.2.2

/-! ### The record of a bale (R112 to R116) -/

theorem closedBale_unassigned (gross : Nat) (unsettled : Bool) (s : State) :
    let b := closedBale gross unsettled s
    let d := draws b.net s.cfl.layers
    let un := unassignedParts (drawnParts d s.cfl.layers)
    b.unassigned = if un + (b.net - d.1 - d.2) = 0 then none else some (un + (b.net - d.1 - d.2)) := rfl

theorem closedBale_shares (gross : Nat) (unsettled : Bool) (s : State) :
    (closedBale gross unsettled s).shares =
      baleLotShares (drawnParts (draws (closedBale gross unsettled s).net s.cfl.layers) s.cfl.layers) := rfl

/-- The shares of a bale make up its net mass (R114). -/
theorem closedBale_net (gross : Nat) (unsettled : Bool) {s : State} (h : FloorInv s) :
    ((closedBale gross unsettled s).shares.map (·.grams)).sum + (closedBale gross unsettled s).unassigned.getD 0 =
      (closedBale gross unsettled s).net := by
  have hgetD (n : Nat) : (if n = 0 then none else some n : Option Nat).getD 0 = n := by
    split
    · exact Eq.symm ‹n = 0›
    · rfl
  rw [closedBale_shares, closedBale_unassigned, hgetD, baleLotShares_sum, ← Nat.add_assoc, lotParts_add_unassignedParts,
    drawnParts_sum _ h]
  have := draws_sum_le (closedBale gross unsettled s).net s.cfl.layers
  omega

/-! ### What a bale posts (R117, R118) -/

theorem refsFullAt_iff {s : State} {i : Fin 32} : refsFullAt s i = true ↔ ∃ l, lotAt s i = some l ∧ l.flags.refsFull = true := by
  rw [refsFullAt]
  cases lotAt s i with
  | none => simp
  | some l => simp

theorem onRefsFull_spec (i : Fin 32) (before s : State) :
    let full (t : State) := ∃ l, lotAt t i = some l ∧ l.flags.refsFull = true
    ((full before ↔ full s) → onRefsFull i before s = s) ∧ (¬ (full before ↔ full s) → onRefsFull i before s = decidePress s) := by
  intro full
  have hsame : refsFullAt before i = refsFullAt s i ↔ (full before ↔ full s) := by
    rw [Bool.eq_iff_iff, refsFullAt_iff, refsFullAt_iff]
  exact ⟨fun h => if_pos (hsame.mpr h), fun h => if_neg (fun he => h (hsame.mp he))⟩

theorem wantsPart_iff {s : State} {i : Fin 32} {n : Nat} : wantsPart s i n = true ↔
    ∃ l, lotAt s i = some l ∧ l.number = n ∧ l.refs.length = 48 ∧ l.state ≠ .complete := by
  rw [wantsPart]
  cases lotAt s i with
  | none => simp
  | some l => simp

theorem postShares_none {b : BaleRecord} {sh : Share} (h : sh.slot = none) (shs : List Share) (s : State) :
    postShares b (sh :: shs) s = postShares b shs s := by
  rw [postShares, h]

theorem postShares_some {b : BaleRecord} {sh : Share} {i : Fin 32} (h : sh.slot = some i) (shs : List Share) (s : State) :
    postShares b (sh :: shs) s = ((postShares b shs (postShare b i sh.grams s)).1,
      if wantsPart (postShare b i sh.grams s) i sh.lotNumber then
        (i, sh.lotNumber) :: (postShares b shs (postShare b i sh.grams s)).2
      else (postShares b shs (postShare b i sh.grams s)).2) := by
  rw [postShares, h]

theorem requestPart_eq {w : Fin 32 × Nat} {s : State} (h : w ∉ s.pru.waiting) : requestPart w s =
    if (partRequest w.1 w.2 s).2 then (partRequest w.1 w.2 s).1
    else postRefsFull w.1 (onPru (fun p => { p with waiting := p.waiting ++ [w] }) (partRequest w.1 w.2 s).1) := if_neg h

/-! ### A layer after a draw (R99, R114) -/

theorem afterDraw_zero {d : Nat} (h : d = 0) (l : Layer) : afterDraw d l = [l] := if_neg (by omega)

theorem afterDraw_all {d : Nat} {l : Layer} (h : 0 < d) (hle : l.remaining ≤ d) : afterDraw d l = [] :=
  (if_pos h).trans (if_pos (Nat.sub_eq_zero_of_le hle))

theorem afterDraw_some {d : Nat} {l : Layer} (h : 0 < d) (hlt : d < l.remaining) : afterDraw d l = [drawnLayer d l] :=
  (if_pos h).trans (if_neg (by omega))

theorem drawnLayer_shares {d i p : Nat} {l : Layer} {parts : List Nat} {sh : Share}
    (h : split d (l.shares.map (·.grams)) = some parts) (hsh : l.shares[i]? = some sh) (hp : parts[i]? = some p) :
    (drawnLayer d l).shares[i]? = some { sh with grams := sh.grams - p } := by
  have hzip : (l.shares.zip parts)[i]? = some (sh, p) := List.getElem?_zip_eq_some.mpr ⟨hsh, hp⟩
  rw [drawnLayer, drawParts_of_split h, List.getElem?_map, hzip, Option.map_some]

theorem length_drawnLayer_shares (d : Nat) (l : Layer) : (drawnLayer d l).shares.length = l.shares.length := by
  rw [drawnLayer, List.length_map, List.length_zip, length_drawParts, Nat.min_self]

/-- Settles O60: the parts gathered into the bale's shares, and each step of the close by its own definition. -/
theorem baleClosePostsSharesAndIdles : Obligations.BaleClosePostsSharesAndIdles := by
  refine ⟨fun gross unsettled s => ?record, ⟨fun gross unsettled s => ⟨rfl, ?close⟩, fun b sh shs s => ⟨rfl, fun h =>
    postShares_none h shs s, fun i h => ?shares⟩, fun w s => ⟨fun h => if_pos h, fun h => ?request⟩, fun d l => ⟨fun h =>
    afterDraw_zero h l, afterDraw_all, fun h hlt => ⟨drawnLayer d l, afterDraw_some h hlt, rfl, length_drawnLayer_shares d l,
    fun parts hparts i p sh => drawnLayer_shares hparts⟩, fun e m r => ⟨rfl, rfl, rfl⟩⟩⟩⟩
  case record =>
    intro b d parts lot partsOf
    refine ⟨fun h => ?_, fun l h => ?_, fun l m r h => ?_, fun n shares h => split_drawParts h n, baleLotShares_pairwise parts,
      fun sh => mem_baleLotShares, fun p => lotKey_mem_baleLotShares, ?_, closedBale_net gross unsettled, rfl⟩
    · simp only [parts, h, drawnParts]
    · simp only [parts, h, drawnParts]
    · simp only [parts, h, drawnParts]
    · rw [← unassignedParts_eq]
      exact closedBale_unassigned gross unsettled s
  case close =>
    exact ⟨_, _, _, rfl, rfl, fun h => if_pos h, fun h => if_neg (by omega)⟩
  case shares =>
    intro full
    refine ⟨postShare b i sh.grams s, (onRefsFull_spec i s _).1, (onRefsFull_spec i s _).2, ?_, fun hw => ?_, fun hw => ?_⟩
    · rw [postShares_some h]
    · rw [postShares_some h, if_pos (wantsPart_iff.mpr hw)]
    · rw [postShares_some h, if_neg (fun hb => hw (wantsPart_iff.mp hb))]
  case request =>
    refine ⟨fun hbuilt => ?_, fun hbuilt => ⟨_, rfl, ?_⟩⟩
    · rw [requestPart_eq h, if_pos hbuilt]
    · rw [requestPart_eq h, hbuilt]
      exact onRefsFull_spec w.1 _ _

end Sys2Proof.Machine
end

section
/-! Frames as bytes (11.1, R164, R190): a frame written and read back, and the command that its bytes are. -/

namespace Sys2Proof.Machine

/-! ### Bytes read back -/

theorem foldl_beBytes (n v acc : Nat) :
    (beBytes n v).foldl (fun a b => a * 256 + b.toNat) acc = acc * 256 ^ n + v % 256 ^ n := by
  induction n generalizing acc with
  | zero => rw [beBytes, List.foldl_nil, Nat.pow_zero, Nat.mul_one, Nat.mod_one, Nat.add_zero]
  | succ n ih =>
    have hsplit : v % 256 ^ (n + 1) = v % 256 ^ n + 256 ^ n * (v / 256 ^ n % 256) := Nat.mod_pow_succ
    rw [beBytes, List.foldl_cons, ih, BitVec.toNat_ofNat, hsplit, show 2 ^ 8 = 256 from rfl, Nat.pow_succ]
    generalize v / 256 ^ n % 256 = digit
    ring

theorem beNat_beBytes (n v : Nat) : beNat (beBytes n v) = v % 256 ^ n := by
  rw [beNat, foldl_beBytes, Nat.zero_mul, Nat.zero_add]

theorem length_frameBody (f : Frame) : (frameBody f).length = 4 + f.payload.length := by
  rw [frameBody, List.length_cons, List.length_cons, List.length_cons, List.length_cons]
  omega

theorem wire_eq (f : Frame) : wire f =
    f.dst :: f.src :: f.kind :: BitVec.ofNat 8 f.payload.length :: (f.payload ++ beBytes 2 (crc (frameBody f)).toNat) := rfl

/-- The length field of a frame that fits. -/
theorem lengthField_wire {f : Frame} (h : f.fits = true) : field (wire f) 3 1 = f.payload.length := by
  have hlen : f.payload.length ≤ 240 := of_decide_eq_true h
  have hfield : field (wire f) 3 1 = beNat (beBytes 1 f.payload.length) := by
    rw [beBytes_one, wire_eq]
    rfl
  rw [hfield, beNat_beBytes]
  omega

theorem frameBad_wire {f : Frame} (h : f.fits = true) : frameBad (wire f) = false := by
  have hlen : f.payload.length ≤ 240 := of_decide_eq_true h
  have hcrc : beNat (beBytes 2 (crc (frameBody f)).toNat) = (crc (frameBody f)).toNat := by
    rw [beNat_beBytes]
    have := (crc (frameBody f)).isLt
    omega
  have hbody := length_frameBody f
  have htake : (wire f).take (4 + f.payload.length) = frameBody f := List.take_left' hbody
  have hdrop : (wire f).drop (4 + f.payload.length) = beBytes 2 (crc (frameBody f)).toNat := List.drop_left' hbody
  simp only [frameBad, lengthField_wire h, htake, hdrop, hcrc, Laws.length_wire, bne_self_eq_false, Bool.or_false,
    Bool.or_eq_false_iff, decide_eq_false_iff_not, bne_eq_false_iff_eq]
  omega

theorem frameOf_wire {f : Frame} (h : f.fits = true) : frameOf (wire f) = f := by
  have hpayload : ((wire f).drop 4).take (field (wire f) 3 1) = f.payload := by
    rw [lengthField_wire h, wire_eq]
    exact List.take_left' rfl
  rw [frameOf, hpayload]
  rfl

theorem receivedCommand_wire {f : Frame} (h : f.fits = true) (s : State) : receivedCommand s (wire f) = frameCommand s f := by
  rw [receivedCommand, frameBad_wire h, frameOf_wire h]
  rfl

/-! ### The command of a frame, by its kind and codes (11.1, 11.2) -/

/-- The frame is not the device's own, and a REQUEST is for the device (R165, R166). -/
abbrev Handed (s : State) (f : Frame) : Prop := (!fromOwn s f && (!kindIs f 4 || toOwn s f)) = true

theorem Handed.notOwn {s : State} {f : Frame} (h : Handed s f) : fromOwn s f = false := by
  rw [Handed, Bool.and_eq_true, Bool.not_eq_true'] at h
  exact h.1

theorem Handed.toOwn {s : State} {f : Frame} (h : Handed s f) (hk : kindIs f 4 = true) : toOwn s f = true := by
  rw [Handed, Bool.and_eq_true, hk] at h
  exact h.2

/-- The command of a handed frame, by its kind code. -/
def kindCommand (s : State) (f : Frame) : Nat → Instr
  | 1 => .sampleFrame f
  | 2 => markCommand f
  | 3 => .commandFrame f
  | 4 => if toOwn s f then requestCommand f (field f.payload 2 1) else .passThroughFrame f
  | 8 => .restart f
  | _ => .passThroughFrame f

theorem frameCommand_own {s : State} {f : Frame} (h : fromOwn s f = true) : frameCommand s f = .ownFrameRemoved f := if_pos h

theorem frameCommand_notOwn {s : State} {f : Frame} (h : fromOwn s f = false) : frameCommand s f = kindCommand s f f.kind.toNat := by
  rw [frameCommand, h]
  rfl

theorem frameCommand_kind {s : State} {f : Frame} {n : Nat} (h : Handed s f) (hk : kindIs f n = true) :
    frameCommand s f = kindCommand s f n := by
  rw [frameCommand_notOwn h.notOwn, of_decide_eq_true hk]

theorem frameCommand_passes {s : State} {f : Frame}
    (h : (!fromOwn s f && !kindIs f 8 && !(kindIs f 4 && toOwn s f)) = true) (hp : passesThrough f = true) :
    frameCommand s f = .passThroughFrame f := by
  simp only [passesThrough, kindIs, Bool.and_eq_true, Bool.not_eq_true', Bool.or_eq_false_iff, Bool.and_eq_false_iff,
    decide_eq_false_iff_not] at h hp
  obtain ⟨⟨hown, h8⟩, h4⟩ := h
  obtain ⟨⟨h1, h2⟩, h3⟩ := hp
  rw [frameCommand_notOwn hown, kindCommand.eq_def]
  split
  · exact absurd ‹_› h1
  · exact absurd ‹_› h2
  · exact absurd ‹_› h3
  · exact if_neg (by rw [h4.resolve_left (fun hn => hn ‹_›)]; decide)
  · exact absurd ‹_› h8
  · rfl

/-- The command of a MARK frame of length 2, by its mark code (11.1). -/
def markRow (f : Frame) : Nat → Instr
  | 1 => .hook f
  | 2 => .hookShort f
  | 3 => .chargeStart f
  | 4 => .pressCycle f
  | 5 => .baleTied f
  | 6 => .unloadDone f
  | _ => .malformedMarkFrame f

theorem markCommand_eq (f : Frame) : markCommand f =
    if f.payload.length = 2 then markRow f (field f.payload 0 1) else .malformedMarkFrame f := rfl

theorem markRow_malformed {f : Frame} {n : Nat} (h : n < 1 ∨ 6 < n) : markRow f n = .malformedMarkFrame f := by
  unfold markRow
  split
  case h_7 => rfl
  all_goals omega

theorem frameCommand_marks {s : State} {f : Frame} {n : Nat} (h : Handed s f) (hm : marks f n = true) :
    frameCommand s f = markRow f n := by
  rw [marks, Bool.and_eq_true, decide_eq_true_eq] at hm
  obtain ⟨hk, hlen, hcode⟩ := hm
  rw [frameCommand_kind h hk]
  show markCommand f = _
  rw [markCommand_eq, if_pos hlen, hcode]

theorem frameCommand_marksNothing {s : State} {f : Frame} (h : Handed s f) (hm : marksNothing f = true) :
    frameCommand s f = .malformedMarkFrame f := by
  rw [marksNothing, Bool.and_eq_true, Bool.not_eq_true', decide_eq_false_iff_not] at hm
  obtain ⟨hk, hnone⟩ := hm
  rw [frameCommand_kind h hk]
  show markCommand f = _
  rw [markCommand_eq]
  by_cases hlen : f.payload.length = 2
  · rw [if_pos hlen]
    exact markRow_malformed (by omega)
  · exact if_neg hlen

theorem frameCommand_request {s : State} {f : Frame} (h : Handed s f) (hk : kindIs f 4 = true) :
    frameCommand s f = requestCommand f (field f.payload 2 1) := (frameCommand_kind h hk).trans (if_pos (h.toOwn hk))

theorem frameCommand_asks {s : State} {f : Frame} {n : Nat} (h : Handed s f) (ha : asks f n = true) :
    frameCommand s f = requestCommand f n := by
  rw [asks, Bool.and_eq_true, decide_eq_true_eq] at ha
  obtain ⟨hk, -, hcode⟩ := ha
  rw [frameCommand_request h hk, hcode]

/-- The command of a REQUEST that needs a table or view code (11.2). -/
def subCommand (f : Frame) : Nat → Nat → Instr
  | 1, sub => tableReadCommand f sub
  | 2, sub => tableWriteCommand f sub
  | 3, sub => statusReadCommand f sub
  | n, _   => requestCommand f n

theorem requestCommand_sub (f : Frame) (n : Nat) : requestCommand f n = subCommand f n (field f.payload 3 1) := by
  rw [subCommand.eq_def]
  split <;> rfl

theorem frameCommand_asksOf {s : State} {f : Frame} {n sub : Nat} (h : Handed s f) (ha : asksOf f n sub = true) :
    frameCommand s f = subCommand f n sub := by
  rw [asksOf, Bool.and_eq_true, decide_eq_true_eq] at ha
  obtain ⟨hasks, -, hsub⟩ := ha
  rw [frameCommand_asks h hasks, requestCommand_sub, hsub]

theorem frameCommand_creditSet {s : State} {f : Frame} (h : Handed s f) (ha : asksCreditSet f = true) :
    frameCommand s f = .ticketCreditSet f := by
  have hasks : asks f 23 = true := (Bool.and_eq_true _ _ ▸ ha : _ ∧ _).1
  exact (frameCommand_asks h hasks).trans (if_pos ha)

theorem frameCommand_creditAdd {s : State} {f : Frame} (h : Handed s f) (ha : asksCreditAdd f = true) :
    frameCommand s f = .ticketCreditAdd f := by
  rw [asksCreditAdd, Bool.and_eq_true, Bool.not_eq_true'] at ha
  obtain ⟨hasks, hset⟩ := ha
  exact (frameCommand_asks h hasks).trans (if_neg (by rw [hset]; decide))

theorem field_short {p : List Byte} {n : Nat} (h : p.length ≤ n) : field p n 1 = 0 := by
  rw [field, List.drop_eq_nil_of_le h]
  rfl

theorem tableReadCommand_undefined {f : Frame} {n : Nat} (h : n < 1 ∨ 7 < n) : tableReadCommand f n = .requestUndefined f := by
  unfold tableReadCommand
  split
  case h_8 => rfl
  all_goals omega

theorem tableWriteCommand_undefined {f : Frame} {n : Nat} (h : n < 1 ∨ 7 < n) : tableWriteCommand f n = .requestUndefined f := by
  unfold tableWriteCommand
  split
  case h_8 => rfl
  all_goals omega

theorem statusReadCommand_undefined {f : Frame} {n : Nat} (h : n < 1 ∨ 13 < n) : statusReadCommand f n = .requestUndefined f := by
  unfold statusReadCommand
  split
  case h_14 => rfl
  all_goals omega

theorem requestCommand_undefined {f : Frame} {n : Nat} (h : n < 1 ∨ 27 < n) : requestCommand f n = .requestUndefined f := by
  unfold requestCommand
  split
  case h_28 => rfl
  all_goals omega

/-- What a payload that names no request lacks: its code is none, or its table or view is none. -/
theorem code_of_namesNothing {p : List Byte} (h : namesRequest p = false) :
    (field p 2 1 < 1 ∨ 27 < field p 2 1) ∨ ((field p 2 1 = 1 ∨ field p 2 1 = 2) ∧ (field p 3 1 < 1 ∨ 7 < field p 3 1)) ∨
      (field p 2 1 = 3 ∧ (field p 3 1 < 1 ∨ 13 < field p 3 1)) := by
  have hshort : p.length ≤ 2 → field p 2 1 = 0 := field_short
  have hnosub : p.length ≤ 3 → field p 3 1 = 0 := field_short
  simp only [namesRequest, Bool.and_eq_false_iff, Bool.or_eq_false_iff, decide_eq_false_iff_not] at h
  omega

theorem frameCommand_asksNothing {s : State} {f : Frame} (h : Handed s f) (ha : asksNothing f = true) :
    frameCommand s f = .requestUndefined f := by
  rw [asksNothing, Bool.and_eq_true, Bool.not_eq_true'] at ha
  obtain ⟨hk, hnone⟩ := ha
  rw [frameCommand_request h hk, requestCommand_sub]
  obtain hcode | ⟨hcode | hcode, hsub⟩ | ⟨hcode, hsub⟩ := code_of_namesNothing hnone
  · rw [← requestCommand_sub]
    exact requestCommand_undefined hcode
  · rw [hcode]
    exact tableReadCommand_undefined hsub
  · rw [hcode]
    exact tableWriteCommand_undefined hsub
  · rw [hcode]
    exact statusReadCommand_undefined hsub

/-! ### Each row's frame is that row's command -/

theorem reads_of {s : State} {f g : Frame} {i : Instr} (h : frameCommand s g = i) (hf : some g = some f) : frameCommand s f = i :=
  Option.some.inj hf ▸ h

/-- A frame of a row, come to the block as the row's, is the row's command: one case for each row. -/
theorem frameCommand_ofRow {s : State} {i : Instr} {f : Frame} (hrow : i.ofRow = true) (hf : i.frame? = some f)
    (ha : i.arrives s = true) : frameCommand s f = i := by
  cases i with
  | frameBoundary => exact absurd hf (Option.some_ne_none f).symm
  | transitEntryDue => exact absurd hf (Option.some_ne_none f).symm
  | unloadSettleDeadline => exact absurd hf (Option.some_ne_none f).symm
  | unloadOverrunDeadline => exact absurd hf (Option.some_ne_none f).symm
  | pressSettleDeadline => exact absurd hf (Option.some_ne_none f).symm
  | ringIdleTimeout => exact absurd hf (Option.some_ne_none f).symm
  | timeOfDaySecond => exact absurd hf (Option.some_ne_none f).symm
  | powerOn _ => exact absurd hf (Option.some_ne_none f).symm
  | badFrame _ => exact absurd hf (Option.some_ne_none f).symm
  | channelStaleDeadline _ => exact absurd hf (Option.some_ne_none f).symm
  | evaluationExpiry _ => exact absurd hf (Option.some_ne_none f).symm
  | overdryDeadline _ => exact absurd hf (Option.some_ne_none f).symm
  | layerRestDue _ => exact absurd hf (Option.some_ne_none f).symm
  | ownFrameRemoved g => exact reads_of (frameCommand_own ha) hf
  | passThroughFrame g => exact reads_of (frameCommand_passes ha hrow) hf
  | sampleFrame g => exact reads_of (frameCommand_kind ha hrow) hf
  | hook g => exact reads_of (frameCommand_marks ha hrow) hf
  | hookShort g => exact reads_of (frameCommand_marks ha hrow) hf
  | chargeStart g => exact reads_of (frameCommand_marks ha hrow) hf
  | pressCycle g => exact reads_of (frameCommand_marks ha hrow) hf
  | baleTied g => exact reads_of (frameCommand_marks ha hrow) hf
  | unloadDone g => exact reads_of (frameCommand_marks ha hrow) hf
  | malformedMarkFrame g => exact reads_of (frameCommand_marksNothing ha hrow) hf
  | commandFrame g => exact reads_of (frameCommand_kind ha hrow) hf
  | restart g => exact reads_of (frameCommand_kind ha hrow) hf
  | requestUndefined g => exact reads_of (frameCommand_asksNothing ha hrow) hf
  | tableReadChannel g => exact reads_of (frameCommand_asksOf ha hrow) hf
  | tableReadActuator g => exact reads_of (frameCommand_asksOf ha hrow) hf
  | tableReadNodeClass g => exact reads_of (frameCommand_asksOf ha hrow) hf
  | tableReadKilnSetup g => exact reads_of (frameCommand_asksOf ha hrow) hf
  | tableReadConfig g => exact reads_of (frameCommand_asksOf ha hrow) hf
  | tableReadRecipe g => exact reads_of (frameCommand_asksOf ha hrow) hf
  | tableReadBaleLog g => exact reads_of (frameCommand_asksOf ha hrow) hf
  | tableWriteChannel g => exact reads_of (frameCommand_asksOf ha hrow) hf
  | tableWriteActuator g => exact reads_of (frameCommand_asksOf ha hrow) hf
  | tableWriteNodeClass g => exact reads_of (frameCommand_asksOf ha hrow) hf
  | tableWriteKilnSetup g => exact reads_of (frameCommand_asksOf ha hrow) hf
  | tableWriteConfig g => exact reads_of (frameCommand_asksOf ha hrow) hf
  | tableWriteRecipe g => exact reads_of (frameCommand_asksOf ha hrow) hf
  | tableWriteBaleLog g => exact reads_of (frameCommand_asksOf ha hrow) hf
  | statusReadDevice g => exact reads_of (frameCommand_asksOf ha hrow) hf
  | statusReadChannels g => exact reads_of (frameCommand_asksOf ha hrow) hf
  | statusReadEvents g => exact reads_of (frameCommand_asksOf ha hrow) hf
  | statusReadIntake g => exact reads_of (frameCommand_asksOf ha hrow) hf
  | statusReadLot g => exact reads_of (frameCommand_asksOf ha hrow) hf
  | statusReadFill g => exact reads_of (frameCommand_asksOf ha hrow) hf
  | statusReadKilns g => exact reads_of (frameCommand_asksOf ha hrow) hf
  | statusReadFloor g => exact reads_of (frameCommand_asksOf ha hrow) hf
  | statusReadPress g => exact reads_of (frameCommand_asksOf ha hrow) hf
  | statusReadBale g => exact reads_of (frameCommand_asksOf ha hrow) hf
  | statusReadTickets g => exact reads_of (frameCommand_asksOf ha hrow) hf
  | statusReadTicket g => exact reads_of (frameCommand_asksOf ha hrow) hf
  | statusReadLink g => exact reads_of (frameCommand_asksOf ha hrow) hf
  | recipeBegin g => exact reads_of (frameCommand_asks ha hrow) hf
  | recipeStage g => exact reads_of (frameCommand_asks ha hrow) hf
  | recipeEnd g => exact reads_of (frameCommand_asks ha hrow) hf
  | timeSet g => exact reads_of (frameCommand_asks ha hrow) hf
  | eventEnable g => exact reads_of (frameCommand_asks ha hrow) hf
  | eventClear g => exact reads_of (frameCommand_asks ha hrow) hf
  | start g => exact reads_of (frameCommand_asks ha hrow) hf
  | lotOpen g => exact reads_of (frameCommand_asks ha hrow) hf
  | lotCancel g => exact reads_of (frameCommand_asks ha hrow) hf
  | lotEnd g => exact reads_of (frameCommand_asks ha hrow) hf
  | kilnStart g => exact reads_of (frameCommand_asks ha hrow) hf
  | kilnHold g => exact reads_of (frameCommand_asks ha hrow) hf
  | kilnResume g => exact reads_of (frameCommand_asks ha hrow) hf
  | kilnForceEnd g => exact reads_of (frameCommand_asks ha hrow) hf
  | kilnFillClose g => exact reads_of (frameCommand_asks ha hrow) hf
  | kilnClear g => exact reads_of (frameCommand_asks ha hrow) hf
  | kilnRecipe g => exact reads_of (frameCommand_asks ha hrow) hf
  | floorClear g => exact reads_of (frameCommand_asks ha hrow) hf
  | pressAbort g => exact reads_of (frameCommand_asks ha hrow) hf
  | ticketStop g => exact reads_of (frameCommand_asks ha hrow) hf
  | ticketRun g => exact reads_of (frameCommand_asks ha hrow) hf
  | ticketRewind g => exact reads_of (frameCommand_asks ha hrow) hf
  | ticketRelease g => exact reads_of (frameCommand_asks ha hrow) hf
  | ticketCreditAdd g => exact reads_of (frameCommand_creditAdd ha hrow) hf
  | ticketCreditSet g => exact reads_of (frameCommand_creditSet ha hrow) hf

/-- Settles O12: the fields of a written frame read back, and the command of each row's frame. -/
theorem framesAndCommandsReadBackFromBytes : Obligations.FramesAndCommandsReadBackFromBytes := by
  refine ⟨fun f h => ⟨frameBad_wire h, frameOf_wire h⟩, fun s i f hwf hf ha => ?_⟩
  rw [Instr.wellFormed, hf, Bool.and_eq_true] at hwf
  obtain ⟨hrow, hfits⟩ := hwf
  rw [receivedCommand_wire hfits]
  exact frameCommand_ofRow hrow hf ha

end Sys2Proof.Machine
end
